-- ==== Sys2Proof/Word.lean ====
section
/-! DEFINITION. The bit-vector types of the core (00_scope.md R5, 10_state.md section 1). Every value is
unsigned (44_load_arith.md R112). -/

namespace Sys2Proof

/-- A general register, a timer, a memory byte (10_state.md R10, R16 to R18). -/
abbrev Byte := BitVec 8

/-- An instruction word, an entry of the call stack, `I`, `PC` (10_state.md R12 to R14, R19). -/
abbrev Word := BitVec 16

/-- A 4-bit field of the opcode (30_encoding.md R51). -/
abbrev Nibble := BitVec 4

/-- The index of a general register: the field `x` or `y` (30_encoding.md R51, R54). -/
abbrev Reg := BitVec 4

/-- The 12-bit address immediate `nnn` (30_encoding.md R51, R54). -/
abbrev Addr12 := BitVec 12

end Sys2Proof
end

