-- ==== Sys2Proof/Interface.lean ====
section
/-! DEFINITION. What a cycle takes from the environment and what it gives back (40_cycle.md R73, R74;
60_exceptions.md R150 to R154). The names and shapes are decision D15 of the spec. -/

namespace Sys2Proof

/-- The environment's answers in one cycle (40_cycle.md R73). -/
structure EnvInputs where
  /-- `env.keys`: bit `k` is 1 when key `k` is pressed (60_exceptions.md R152). -/
  keys : BitVec 16
  /-- `env.rand`: the byte an executed Cxnn draws (60_exceptions.md R153). -/
  rand : Byte
  /-- `env.collision`: the display surface's answer to a Dxyn (60_exceptions.md R151). -/
  collision : Bool
  deriving DecidableEq, Repr

/-- The events a completed cycle can give back (40_cycle.md R74). -/
inductive Event where
  /-- 00E0's request to the display surface (41_display.md R80). -/
  | displayClear
  /-- Dxyn's request: the coordinates as they are, the sprite rows first row first (41_display.md R81). -/
  | displayDraw (ox oy : Byte) (rows : List Byte)
  /-- The diagnostic of an unrecognized word: its address and the word (60_exceptions.md R137). -/
  | unknownOpcode (pc w : Word)
  /-- The countdown took `ST` from 1 to 0 (40_cycle.md R71). -/
  | soundEvent
  deriving DecidableEq, Repr

end Sys2Proof
end

