-- ==== Sys2Proof/Config.lean ====
section
/-! DEFINITION. The fixed sizes of the machine (00_scope.md R4), the parameter the spec decides (`SP_LIMIT`),
the default font, and the free values of the environment. -/

namespace Sys2Proof.Config

/-- The size of `MEM` in bytes (20_memory.md R30). -/
def memSize : Nat := 4096

/-- The address a program image is loaded at, and the reset value of `PC` (20_memory.md R31). -/
def loadAddress : Nat := 0x200

/-- The most bytes of an image that are loaded (70_reset_and_hazards.md R167). -/
def imageMax : Nat := 3584

/-- The largest value `SP` may hold: decided 15 (92_eei_decisions.md D2, 90_conflicts.md C5; log 5). -/
def spLimit : Nat := 15

/-- The largest key index of the input source's contract (60_exceptions.md R152, D4). -/
def keyLimit : Nat := 15

/-- Glyphs 0 to 7 of the default `FONT` (20_memory.md R33).
PRESUMED, unsafe: the table is the spec's default from general knowledge (log 1). -/
def fontLow : List Byte :=
  [0xF0, 0x90, 0x90, 0x90, 0xF0] ++ [0x20, 0x60, 0x20, 0x20, 0x70] ++
  [0xF0, 0x10, 0xF0, 0x80, 0xF0] ++ [0xF0, 0x10, 0xF0, 0x10, 0xF0] ++
  [0x90, 0x90, 0xF0, 0x10, 0x10] ++ [0xF0, 0x80, 0xF0, 0x10, 0xF0] ++
  [0xF0, 0x80, 0xF0, 0x90, 0xF0] ++ [0xF0, 0x10, 0x20, 0x40, 0x40]

/-- Glyphs 8 to F of the default `FONT` (20_memory.md R33; log 1). -/
def fontHigh : List Byte :=
  [0xF0, 0x90, 0xF0, 0x90, 0xF0] ++ [0xF0, 0x90, 0xF0, 0x10, 0xF0] ++
  [0xF0, 0x90, 0xF0, 0x90, 0x90] ++ [0xE0, 0x90, 0xE0, 0x90, 0xE0] ++
  [0xF0, 0x80, 0x80, 0x80, 0xF0] ++ [0xE0, 0x90, 0x90, 0x90, 0xE0] ++
  [0xF0, 0x80, 0xF0, 0x80, 0xF0] ++ [0xF0, 0x80, 0xF0, 0x80, 0x80]

/-- The default of the parameter `FONT`, 80 bytes (20_memory.md R32, R33; log 1). -/
def defaultFont : List Byte := fontLow ++ fontHigh

/-- FREE VALUE: the key states sampled in the cycle after `cycles` completed ones and the outputs so far,
where the state names no input for it. Any 16 bits (60_exceptions.md R152, U10; log 2). -/
opaque freeKeys (cycles : Nat) (outputs : List Event) : BitVec 16

/-- FREE VALUE: the random byte of that cycle, where the state names none. Any byte, under no law
(60_exceptions.md R153, U8; log 2). -/
opaque freeRand (cycles : Nat) (outputs : List Event) : Byte

/-- FREE VALUE: the display surface's answer in that cycle, where the state names none; `outputs` ends with
the draw request it answers. Either bit (60_exceptions.md R151, U9; log 2). -/
opaque freeCollision (cycles : Nat) (outputs : List Event) : Bool

end Sys2Proof.Config
end

