-- ==== Sys2Proof/Syntax.lean ====
section
/-! DEFINITION. The instruction set: one constructor per row of the opcode map (30_encoding.md R55), 34 in
all. An unrecognized word is no instruction (30_encoding.md R56, R57): the decoder rejects it. -/

namespace Sys2Proof

/-- One constructor per row of spec/opcode_table.json, in the table's order. Register indices, immediates and
addresses have the width of their field (30_encoding.md R51); the row count of Dxyn is a count (R54), held to
0..15 by `Instr.wf`. -/
inductive Instr where
  /-- 00E0, `CLS` (41_display.md R80). -/
  | cls
  /-- 00EE, `RET` (42_control_flow.md R85). -/
  | ret
  /-- 1nnn, `JP nnn` (42_control_flow.md R86). -/
  | jp (nnn : Addr12)
  /-- 2nnn, `CALL nnn` (42_control_flow.md R87). -/
  | call (nnn : Addr12)
  /-- 3xnn, `SE Vx, nn` (43_skips.md R91). -/
  | seImm (x : Reg) (nn : Byte)
  /-- 4xnn, `SNE Vx, nn` (43_skips.md R92). -/
  | sneImm (x : Reg) (nn : Byte)
  /-- 5xy0, `SE Vx, Vy` (43_skips.md R93). -/
  | seReg (x y : Reg)
  /-- 6xnn, `LD Vx, nn` (44_load_arith.md R101). -/
  | ldImm (x : Reg) (nn : Byte)
  /-- 7xnn, `ADD Vx, nn` (44_load_arith.md R102). -/
  | addImm (x : Reg) (nn : Byte)
  /-- 8xy0, `LD Vx, Vy` (44_load_arith.md R103). -/
  | ldReg (x y : Reg)
  /-- 8xy1, `OR Vx, Vy` (44_load_arith.md R104). -/
  | or (x y : Reg)
  /-- 8xy2, `AND Vx, Vy` (44_load_arith.md R105). -/
  | and (x y : Reg)
  /-- 8xy3, `XOR Vx, Vy` (44_load_arith.md R106). -/
  | xor (x y : Reg)
  /-- 8xy4, `ADD Vx, Vy` (44_load_arith.md R107). -/
  | addReg (x y : Reg)
  /-- 8xy5, `SUB Vx, Vy` (44_load_arith.md R108). -/
  | sub (x y : Reg)
  /-- 8xy6, `SHR Vx`; `y` is part of the word and ignored (44_load_arith.md R109, 30_encoding.md R58). -/
  | shr (x y : Reg)
  /-- 8xy7, `SUBN Vx, Vy` (44_load_arith.md R110). -/
  | subn (x y : Reg)
  /-- 8xyE, `SHL Vx`; `y` is part of the word and ignored (44_load_arith.md R111, 30_encoding.md R58). -/
  | shl (x y : Reg)
  /-- 9xy0, `SNE Vx, Vy` (43_skips.md R94). -/
  | sneReg (x y : Reg)
  /-- Annn, `LD I, nnn` (45_index_memory.md R115). -/
  | ldI (nnn : Addr12)
  /-- Bnnn, `JP V0, nnn` (42_control_flow.md R88). -/
  | jpV0 (nnn : Addr12)
  /-- Cxnn, `RND Vx, nn` (46_random_timers_keywait.md R125). -/
  | rnd (x : Reg) (nn : Byte)
  /-- Dxyn, `DRW Vx, Vy, n` (41_display.md R81). -/
  | drw (x y : Reg) (n : Nat)
  /-- Ex9E, `SKP Vx` (43_skips.md R95). -/
  | skp (x : Reg)
  /-- ExA1, `SKNP Vx` (43_skips.md R96). -/
  | sknp (x : Reg)
  /-- Fx07, `LD Vx, DT` (46_random_timers_keywait.md R126). -/
  | ldVxDt (x : Reg)
  /-- Fx0A, `LD Vx, K` (46_random_timers_keywait.md R127). -/
  | ldVxK (x : Reg)
  /-- Fx15, `LD DT, Vx` (46_random_timers_keywait.md R128). -/
  | ldDtVx (x : Reg)
  /-- Fx18, `LD ST, Vx` (46_random_timers_keywait.md R129). -/
  | ldStVx (x : Reg)
  /-- Fx1E, `ADD I, Vx` (45_index_memory.md R116). -/
  | addI (x : Reg)
  /-- Fx29, `LD F, Vx` (45_index_memory.md R117). -/
  | ldF (x : Reg)
  /-- Fx33, `LD B, Vx` (45_index_memory.md R118). -/
  | ldB (x : Reg)
  /-- Fx55, `LD [I], Vx`; `x` is the index of the last register stored (45_index_memory.md R119). -/
  | stRegs (x : Reg)
  /-- Fx65, `LD Vx, [I]`; `x` is the index of the last register loaded (45_index_memory.md R120). -/
  | ldRegs (x : Reg)
  deriving DecidableEq, Repr

end Sys2Proof
end

