-- ==== Sys2Proof/Decode.lean ====
section
/-! DEFINITION. Decoding and encoding (30_encoding.md). `decodeWord` follows the algorithm of R62; the opcode
map of R55 stands beside it as data, and `encode` is written from the map's patterns. Decoding is strict on
every fixed nibble (R53, D12; log 7). -/

namespace Sys2Proof

/-! ## Fields (30_encoding.md R51) -/

/-- Bits 15:12, the family selector. -/
def Field.op (w : Word) : Nibble := w.extractLsb' 12 4
/-- Bits 11:8. -/
def Field.x (w : Word) : Reg := w.extractLsb' 8 4
/-- Bits 7:4. -/
def Field.y (w : Word) : Reg := w.extractLsb' 4 4
/-- Bits 3:0. -/
def Field.n (w : Word) : Nibble := w.extractLsb' 0 4
/-- Bits 7:0. -/
def Field.nn (w : Word) : Byte := w.extractLsb' 0 8
/-- Bits 11:0. -/
def Field.nnn (w : Word) : Addr12 := w.extractLsb' 0 12

/-! ## The decoder (30_encoding.md R62) -/

/-- Why bytes are no instruction. -/
inductive Reject where
  /-- The word matches no row of the opcode map (30_encoding.md R57). The cycle reports and skips it (R56). -/
  | unrecognized (w : Word)
  /-- Fewer than the two bytes of an instruction (30_encoding.md R50). -/
  | truncated (bytes : List Byte)
  deriving DecidableEq, Repr

/-- Family 0x0: the whole word selects (30_encoding.md R53, R57). -/
def decodeFamily0 (w : Word) : Except Reject Instr :=
  if w = 0x00E0#16 then .ok .cls
  else if w = 0x00EE#16 then .ok .ret
  else .error (.unrecognized w)

/-- Family 0x8: the low nibble selects (30_encoding.md R53, R57). -/
def decodeFamily8 (w : Word) : Except Reject Instr :=
  match Field.n w with
  | 0x0#4 => .ok (.ldReg (Field.x w) (Field.y w))
  | 0x1#4 => .ok (.or (Field.x w) (Field.y w))
  | 0x2#4 => .ok (.and (Field.x w) (Field.y w))
  | 0x3#4 => .ok (.xor (Field.x w) (Field.y w))
  | 0x4#4 => .ok (.addReg (Field.x w) (Field.y w))
  | 0x5#4 => .ok (.sub (Field.x w) (Field.y w))
  | 0x6#4 => .ok (.shr (Field.x w) (Field.y w))
  | 0x7#4 => .ok (.subn (Field.x w) (Field.y w))
  | 0xE#4 => .ok (.shl (Field.x w) (Field.y w))
  | _ => .error (.unrecognized w)

/-- Family 0xE: the low byte selects (30_encoding.md R53, R57). -/
def decodeFamilyE (w : Word) : Except Reject Instr :=
  match Field.nn w with
  | 0x9E#8 => .ok (.skp (Field.x w))
  | 0xA1#8 => .ok (.sknp (Field.x w))
  | _ => .error (.unrecognized w)

/-- Family 0xF: the low byte selects (30_encoding.md R53, R57). -/
def decodeFamilyF (w : Word) : Except Reject Instr :=
  match Field.nn w with
  | 0x07#8 => .ok (.ldVxDt (Field.x w))
  | 0x0A#8 => .ok (.ldVxK (Field.x w))
  | 0x15#8 => .ok (.ldDtVx (Field.x w))
  | 0x18#8 => .ok (.ldStVx (Field.x w))
  | 0x1E#8 => .ok (.addI (Field.x w))
  | 0x29#8 => .ok (.ldF (Field.x w))
  | 0x33#8 => .ok (.ldB (Field.x w))
  | 0x55#8 => .ok (.stRegs (Field.x w))
  | 0x65#8 => .ok (.ldRegs (Field.x w))
  | _ => .error (.unrecognized w)

/-- The instruction a word stands for, or the rejection of the word: total (30_encoding.md R62, R67 of
40_cycle.md). -/
def decodeWord (w : Word) : Except Reject Instr :=
  match Field.op w with
  | 0x0#4 => decodeFamily0 w
  | 0x1#4 => .ok (.jp (Field.nnn w))
  | 0x2#4 => .ok (.call (Field.nnn w))
  | 0x3#4 => .ok (.seImm (Field.x w) (Field.nn w))
  | 0x4#4 => .ok (.sneImm (Field.x w) (Field.nn w))
  | 0x5#4 => if Field.n w = 0x0#4 then .ok (.seReg (Field.x w) (Field.y w)) else .error (.unrecognized w)
  | 0x6#4 => .ok (.ldImm (Field.x w) (Field.nn w))
  | 0x7#4 => .ok (.addImm (Field.x w) (Field.nn w))
  | 0x8#4 => decodeFamily8 w
  | 0x9#4 => if Field.n w = 0x0#4 then .ok (.sneReg (Field.x w) (Field.y w)) else .error (.unrecognized w)
  | 0xA#4 => .ok (.ldI (Field.nnn w))
  | 0xB#4 => .ok (.jpV0 (Field.nnn w))
  | 0xC#4 => .ok (.rnd (Field.x w) (Field.nn w))
  | 0xD#4 => .ok (.drw (Field.x w) (Field.y w) (Field.n w).toNat)
  | 0xE#4 => decodeFamilyE w
  | _ => decodeFamilyF w

/-- The word of two bytes in memory, the lower address first: big-endian (20_memory.md R37). -/
def wordOfBytes (hi lo : Byte) : Word := hi ++ lo

/-- The two bytes of a word as memory holds them, the high byte first (20_memory.md R37). -/
def bytesOfWord (w : Word) : List Byte := [w.extractLsb' 8 8, w.extractLsb' 0 8]

/-- Decodes the bytes at the front of a list and gives the bytes after them. Every instruction has two bytes
(30_encoding.md R50). -/
def decodeBytes : List Byte → Except Reject (Instr × List Byte)
  | hi :: lo :: rest => (decodeWord (wordOfBytes hi lo)).map fun i => (i, rest)
  | bytes => .error (.truncated bytes)

/-- The word of a table row: bit 0 of `w` is bit 0 of the word, the bits from `nbits` on are 0. -/
def tableWord (nbits w : Nat) : Word := BitVec.ofNat 16 (w % 2 ^ nbits)

/-- The instruction the decoder reads from a word as spec/opcode_table.json numbers its bits; no instruction
has more than 16 bits (30_encoding.md R50). -/
def decodeTableWord (nbits w : Nat) : Option Instr :=
  if 16 < nbits then none
  else
    match decodeBytes (bytesOfWord (tableWord nbits w)) with
    | .ok (i, _) => some i
    | .error _ => none

/-! ## The encoder (30_encoding.md R52, R55) -/

/-- Format `NNN`: `op || nnn` (30_encoding.md R52). -/
def formatNNN (op : Nibble) (nnn : Addr12) : Word := op ++ nnn

/-- Formats `XNN` and `X`: `op || x || nn` (30_encoding.md R52). -/
def formatXNN (op : Nibble) (x : Reg) (nn : Byte) : Word := op ++ x ++ nn

/-- Formats `XY` and `XYN`: `op || x || y || n` (30_encoding.md R52). -/
def formatXYN (op : Nibble) (x y : Reg) (n : Nibble) : Word := op ++ x ++ y ++ n

/-- The word of an instruction, from the patterns of the opcode map. -/
def encode : Instr → Word
  | .cls => 0x00E0#16
  | .ret => 0x00EE#16
  | .jp nnn => formatNNN 0x1#4 nnn
  | .call nnn => formatNNN 0x2#4 nnn
  | .seImm x nn => formatXNN 0x3#4 x nn
  | .sneImm x nn => formatXNN 0x4#4 x nn
  | .seReg x y => formatXYN 0x5#4 x y 0x0#4
  | .ldImm x nn => formatXNN 0x6#4 x nn
  | .addImm x nn => formatXNN 0x7#4 x nn
  | .ldReg x y => formatXYN 0x8#4 x y 0x0#4
  | .or x y => formatXYN 0x8#4 x y 0x1#4
  | .and x y => formatXYN 0x8#4 x y 0x2#4
  | .xor x y => formatXYN 0x8#4 x y 0x3#4
  | .addReg x y => formatXYN 0x8#4 x y 0x4#4
  | .sub x y => formatXYN 0x8#4 x y 0x5#4
  | .shr x y => formatXYN 0x8#4 x y 0x6#4
  | .subn x y => formatXYN 0x8#4 x y 0x7#4
  | .shl x y => formatXYN 0x8#4 x y 0xE#4
  | .sneReg x y => formatXYN 0x9#4 x y 0x0#4
  | .ldI nnn => formatNNN 0xA#4 nnn
  | .jpV0 nnn => formatNNN 0xB#4 nnn
  | .rnd x nn => formatXNN 0xC#4 x nn
  | .drw x y n => formatXYN 0xD#4 x y (BitVec.ofNat 4 n)
  | .skp x => formatXNN 0xE#4 x 0x9E#8
  | .sknp x => formatXNN 0xE#4 x 0xA1#8
  | .ldVxDt x => formatXNN 0xF#4 x 0x07#8
  | .ldVxK x => formatXNN 0xF#4 x 0x0A#8
  | .ldDtVx x => formatXNN 0xF#4 x 0x15#8
  | .ldStVx x => formatXNN 0xF#4 x 0x18#8
  | .addI x => formatXNN 0xF#4 x 0x1E#8
  | .ldF x => formatXNN 0xF#4 x 0x29#8
  | .ldB x => formatXNN 0xF#4 x 0x33#8
  | .stRegs x => formatXNN 0xF#4 x 0x55#8
  | .ldRegs x => formatXNN 0xF#4 x 0x65#8

/-- The bytes of an instruction as memory holds them. -/
def encodeBytes (i : Instr) : List Byte := bytesOfWord (encode i)

/-! ## The opcode map as data (30_encoding.md R55) -/

/-- A row of the opcode map: a word `w` selects it when `w &&& mask = pattern`. -/
structure Row where
  /-- The column `match`. -/
  pattern : Word
  mask : Word
  /-- The row's mnemonic in spec/opcode_table.json. -/
  mnemonic : String
  deriving DecidableEq, Repr

/-- The word has the row's fixed nibbles (30_encoding.md R55). -/
def Row.selects (r : Row) (w : Word) : Prop := w &&& r.mask = r.pattern

/-- Rows 1 to 13 of the opcode map. -/
def opcodeRowsLow : List Row :=
  [⟨0x00E0#16, 0xFFFF#16, "CLS"⟩, ⟨0x00EE#16, 0xFFFF#16, "RET"⟩,
   ⟨0x1000#16, 0xF000#16, "JP"⟩, ⟨0x2000#16, 0xF000#16, "CALL"⟩,
   ⟨0x3000#16, 0xF000#16, "SE_imm"⟩, ⟨0x4000#16, 0xF000#16, "SNE_imm"⟩,
   ⟨0x5000#16, 0xF00F#16, "SE_reg"⟩, ⟨0x6000#16, 0xF000#16, "LD_imm"⟩,
   ⟨0x7000#16, 0xF000#16, "ADD_imm"⟩, ⟨0x8000#16, 0xF00F#16, "LD_reg"⟩,
   ⟨0x8001#16, 0xF00F#16, "OR"⟩, ⟨0x8002#16, 0xF00F#16, "AND"⟩,
   ⟨0x8003#16, 0xF00F#16, "XOR"⟩]

/-- Rows 14 to 25 of the opcode map. -/
def opcodeRowsMid : List Row :=
  [⟨0x8004#16, 0xF00F#16, "ADD_reg"⟩, ⟨0x8005#16, 0xF00F#16, "SUB"⟩,
   ⟨0x8006#16, 0xF00F#16, "SHR"⟩, ⟨0x8007#16, 0xF00F#16, "SUBN"⟩,
   ⟨0x800E#16, 0xF00F#16, "SHL"⟩, ⟨0x9000#16, 0xF00F#16, "SNE_reg"⟩,
   ⟨0xA000#16, 0xF000#16, "LD_I"⟩, ⟨0xB000#16, 0xF000#16, "JP_V0"⟩,
   ⟨0xC000#16, 0xF000#16, "RND"⟩, ⟨0xD000#16, 0xF000#16, "DRW"⟩,
   ⟨0xE09E#16, 0xF0FF#16, "SKP"⟩, ⟨0xE0A1#16, 0xF0FF#16, "SKNP"⟩]

/-- Rows 26 to 34 of the opcode map. -/
def opcodeRowsHigh : List Row :=
  [⟨0xF007#16, 0xF0FF#16, "LD_Vx_DT"⟩, ⟨0xF00A#16, 0xF0FF#16, "LD_Vx_K"⟩,
   ⟨0xF015#16, 0xF0FF#16, "LD_DT_Vx"⟩, ⟨0xF018#16, 0xF0FF#16, "LD_ST_Vx"⟩,
   ⟨0xF01E#16, 0xF0FF#16, "ADD_I"⟩, ⟨0xF029#16, 0xF0FF#16, "LD_F"⟩,
   ⟨0xF033#16, 0xF0FF#16, "LD_B"⟩, ⟨0xF055#16, 0xF0FF#16, "ST_regs"⟩,
   ⟨0xF065#16, 0xF0FF#16, "LD_regs"⟩]

/-- The 34 rows of the opcode map, in its order. -/
def opcodeMap : List Row := opcodeRowsLow ++ opcodeRowsMid ++ opcodeRowsHigh

/-- The mnemonic of an instruction's row in spec/opcode_table.json. -/
def Instr.mnemonic : Instr → String
  | .cls => "CLS"
  | .ret => "RET"
  | .jp _ => "JP"
  | .call _ => "CALL"
  | .seImm _ _ => "SE_imm"
  | .sneImm _ _ => "SNE_imm"
  | .seReg _ _ => "SE_reg"
  | .ldImm _ _ => "LD_imm"
  | .addImm _ _ => "ADD_imm"
  | .ldReg _ _ => "LD_reg"
  | .or _ _ => "OR"
  | .and _ _ => "AND"
  | .xor _ _ => "XOR"
  | .addReg _ _ => "ADD_reg"
  | .sub _ _ => "SUB"
  | .shr _ _ => "SHR"
  | .subn _ _ => "SUBN"
  | .shl _ _ => "SHL"
  | .sneReg _ _ => "SNE_reg"
  | .ldI _ => "LD_I"
  | .jpV0 _ => "JP_V0"
  | .rnd _ _ => "RND"
  | .drw _ _ _ => "DRW"
  | .skp _ => "SKP"
  | .sknp _ => "SKNP"
  | .ldVxDt _ => "LD_Vx_DT"
  | .ldVxK _ => "LD_Vx_K"
  | .ldDtVx _ => "LD_DT_Vx"
  | .ldStVx _ => "LD_ST_Vx"
  | .addI _ => "ADD_I"
  | .ldF _ => "LD_F"
  | .ldB _ => "LD_B"
  | .stRegs _ => "ST_regs"
  | .ldRegs _ => "LD_regs"

end Sys2Proof
end

