-- ==== Sys2Proof/Machine/State.lean ====
section
/-! DEFINITION. The state of the core (10_state.md), the reasons a step can stop, and the state right after
reset (10_state.md R22, 70_reset_and_hazards.md R165). -/

namespace Sys2Proof.Machine

/-- `MEM` (10_state.md R18): the bytes that differ from their reset contents, by rising address
(`Memory.wf`). What an unlisted address reads as is `Memory.initial`. -/
abbrev Memory := List Host.Cell

/-- The five kinds of fault (60_exceptions.md R136, D22). -/
inductive FaultKind where
  /-- The fetch of any cycle with `PC > 4094` (40_cycle.md R66). -/
  | fetchOor
  /-- Dxyn, Fx33, Fx55, Fx65 reaching past address 4095 (20_memory.md R36). -/
  | memOor
  /-- 2nnn with `SP = SP_LIMIT` (42_control_flow.md R87). -/
  | stackOverflow
  /-- 00EE with `SP = 0` (42_control_flow.md R85). -/
  | stackUnderflow
  /-- Ex9E, ExA1 with `V[x] > 15` (43_skips.md R95, R96). -/
  | keyIndex
  deriving DecidableEq, Repr

/-- `raise Fault(kind, info)` (00_scope.md R7): what a rule raises, before the latch adds `PC` and the opcode. -/
structure Violation where
  kind : FaultKind
  /-- The offending address or index (60_exceptions.md R136). -/
  info : Nat
  deriving DecidableEq, Repr

/-- The record of the fault latch `FAULT` (10_state.md R20). -/
structure FaultRecord where
  kind : FaultKind
  /-- `PC` at the start of the faulting cycle. -/
  pc : Word
  /-- The fetched word; absent for a fetch fault. -/
  opcode : Option Word
  /-- The offending address or index. -/
  info : Nat
  deriving DecidableEq, Repr

/-- The state of the core (10_state.md section 1) and, last, the model's own fields that carry a cycle's inputs
and outputs (40_cycle.md R73, R74; log 2, log 3). -/
structure State where
  /-- `V[0]` to `V[15]`; `VF` is `V[15]` (R10, R11). -/
  v : Vector Byte 16
  /-- The index register `I` (R12). -/
  i : Word
  /-- `PC` (R13). -/
  pc : Word
  /-- `STACK[0]` to `STACK[15]` (R14). -/
  stack : Vector Word 16
  /-- `SP`, the number of return addresses on the stack (R15). -/
  sp : BitVec 4
  /-- The delay timer (R16). -/
  dt : Byte
  /-- The sound timer (R17). -/
  st : Byte
  /-- `MEM` (R18). -/
  mem : Memory
  /-- `FAULT` (R20). -/
  fault : Option FaultRecord
  /-- MODEL's own: the environment's answers of the coming cycles, this cycle's first (log 2). -/
  inputs : List EnvInputs
  /-- MODEL's own: how many cycles have completed, the counter of the free values (log 2). -/
  cycles : Nat
  /-- MODEL's own: the events of the completed cycles, oldest first (log 3). -/
  outputs : List Event
  deriving DecidableEq, Repr

/-- Why `step` answers no next state. -/
inductive Fault where
  /-- Raised by `step` alone, in a state whose latch `FAULT` is set: "The core has no step"
  (60_exceptions.md R142). The cycle that raised the fault is itself a next state, in which the latch holds the
  record (R141; log 4). Safe: nothing follows it. -/
  | halted (r : FaultRecord)
  deriving DecidableEq, Repr

/-- Why an instruction has no meaning. -/
inductive Refusal where
  /-- Raised by `exec` for an instruction the model gives no meaning yet; safe. No arm raises it. -/
  | notModelled (mnemonic : String)
  deriving DecidableEq, Repr

/-- The machine right after reset, before an image is loaded (10_state.md R22, 70_reset_and_hazards.md R165):
every register, stack entry and timer 0, `PC` at 0x200, memory as reset leaves it. The three fields of the
model's own start empty (DESIGN CHOICE, log 2 and log 3). -/
def State.reset : State where
  v := Vector.replicate 16 0
  i := 0
  pc := BitVec.ofNat 16 Config.loadAddress
  stack := Vector.replicate 16 0
  sp := 0
  dt := 0
  st := 0
  mem := []
  fault := none
  inputs := []
  cycles := 0
  outputs := []

end Sys2Proof.Machine
end

