-- ==== Sys2Proof/Machine/Ops.lean ====
section
/-! DEFINITION. The named operations over memory, registers, the call stack, the environment and the fault
latch: the only ways a rule touches state (00_scope.md R7). -/

namespace Sys2Proof.Machine

/-! ## Memory (20_memory.md) -/

/-- What an address that memory does not list reads as: its contents after reset, `FONT` at 0..79 and 0
elsewhere (10_state.md R22, 20_memory.md R31, R33; the font bytes are PRESUMED, log 1). -/
def Memory.initial (a : Nat) : Byte := Config.defaultFont.getD a 0

/-- `MEM[a]` (20_memory.md R42). -/
def Memory.read : Memory → Nat → Byte
  | [], a => Memory.initial a
  | c :: m, a => if c.1 = a then c.2 else Memory.read m a

/-- The memory in which address `a` is not listed. -/
def Memory.eraseCell (m : Memory) (a : Nat) : Memory := m.filter fun c => c.1 ≠ a

/-- The memory in which address `a`, not listed before, is listed with byte `b` at its place. -/
def Memory.insertCell : Memory → Nat → Byte → Memory
  | [], a, b => [(a, b)]
  | c :: m, a, b => if a < c.1 then (a, b) :: c :: m else c :: Memory.insertCell m a b

/-- `MEM[a] <- b`, keeping the canonical form: a byte equal to its reset contents is not listed. -/
def Memory.write (m : Memory) (a : Nat) (b : Byte) : Memory :=
  if b = Memory.initial a then m.eraseCell a else (m.eraseCell a).insertCell a b

/-- The `n` bytes from address `a` up (20_memory.md R41). -/
def Memory.readBytes (m : Memory) (a n : Nat) : List Byte :=
  (List.range n).map fun k => m.read (a + k)

/-- Writes bytes from address `a` up, ascending (20_memory.md R41, R43). -/
def Memory.writeBytes : Memory → Nat → List Byte → Memory
  | m, _, [] => m
  | m, a, b :: bs => Memory.writeBytes (m.write a b) (a + 1) bs

/-- The canonical form: addresses strictly rising, inside the 4096 bytes, no byte equal to its reset contents. -/
abbrev Memory.wf (m : Memory) : Prop :=
  m.Pairwise (fun c d => c.1 < d.1) ∧ ∀ c ∈ m, c.1 < Config.memSize ∧ c.2 ≠ Memory.initial c.1

/-- The bounds check of a whole access; an access of no bytes passes (20_memory.md R36). -/
def accessOk (addr n : Nat) : Bool := decide (n = 0 ∨ addr + n ≤ Config.memSize)

/-- What an access past the end raises: the lowest offending address (20_memory.md R36, 60_exceptions.md R136). -/
def memViolation (addr : Nat) : Violation := ⟨.memOor, max addr Config.memSize⟩

/-- `MemRead(addr, n)` (20_memory.md R36). -/
def State.memRead (s : State) (addr n : Nat) : Except Violation (List Byte) :=
  if accessOk addr n then .ok (s.mem.readBytes addr n) else .error (memViolation addr)

/-- `MemWrite(addr, n, bytes)` with `n` the length of `bytes` (20_memory.md R36). -/
def State.memWrite (s : State) (addr : Nat) (bytes : List Byte) : Except Violation State :=
  if accessOk addr bytes.length then .ok { s with mem := s.mem.writeBytes addr bytes }
  else .error (memViolation addr)

/-! ## Registers (10_state.md) -/

/-- `VF` is `V[15]` (10_state.md R11). -/
def vF : Reg := 15#4

/-- `V[x]` (10_state.md R10). -/
def State.reg (s : State) (x : Reg) : Byte := s.v[x.toNat]'x.isLt

/-- `V[x] <- b` (10_state.md R10). -/
def State.setReg (s : State) (x : Reg) (b : Byte) : State := { s with v := s.v.set x.toNat b x.isLt }

/-- `V[k] <- b` for the bytes `b` of a list, `k` counting up from the first argument (45_index_memory.md R120). -/
def loadRegsFrom : Nat → List Byte → Vector Byte 16 → Vector Byte 16
  | _, [], v => v
  | k, b :: bs, v => loadRegsFrom (k + 1) bs (v.setIfInBounds k b)

/-- `V[0]`, `V[1]`, ... receive the bytes (45_index_memory.md R120). -/
def State.loadRegs (s : State) (bytes : List Byte) : State := { s with v := loadRegsFrom 0 bytes s.v }

/-- `I <- a` (10_state.md R12). -/
def State.setI (s : State) (a : Word) : State := { s with i := a }

/-- `pc <- target` (00_scope.md R7, 10_state.md R13). -/
def State.setPc (s : State) (target : Word) : State := { s with pc := target }

/-- `pc <- PC + 2` (10_state.md R13). -/
def State.advance (s : State) : State := s.setPc (s.pc + 2)

/-- `skip_if(cond)` (43_skips.md R90). -/
def State.skipIf (s : State) (cond : Bool) : State := s.setPc (if cond then s.pc + 4 else s.pc + 2)

/-- `DT <- b` (10_state.md R16). -/
def State.setDt (s : State) (b : Byte) : State := { s with dt := b }

/-- `ST <- b` (10_state.md R17). -/
def State.setSt (s : State) (b : Byte) : State := { s with st := b }

/-! ## The call stack (10_state.md R14, R15) -/

/-- `STACK[SP] <- w` and `SP <- SP + 1`, or the overflow of a full stack (42_control_flow.md R87, D2). -/
def State.pushCall (s : State) (w : Word) : Except Violation State :=
  if s.sp.toNat = Config.spLimit then .error ⟨.stackOverflow, s.sp.toNat⟩
  else .ok { s with stack := s.stack.set s.sp.toNat w s.sp.isLt, sp := s.sp + 1 }

/-- `SP <- SP - 1` and `pc <- STACK[SP]` with the new `SP`, or the underflow of an empty stack; the entry keeps
its value (42_control_flow.md R85, 10_state.md R14, D3). -/
def State.popCall (s : State) : Except Violation State :=
  if s.sp.toNat = 0 then .error ⟨.stackUnderflow, 0⟩
  else .ok { s with sp := s.sp - 1, pc := s.stack[(s.sp - 1).toNat]'(s.sp - 1).isLt }

/-! ## The environment (40_cycle.md R73, R74; log 2, log 3) -/

/-- `emit e` (00_scope.md R7). -/
def State.emit (s : State) (e : Event) : State := { s with outputs := s.outputs ++ [e] }

/-- `env.keys` of this cycle: the input the state names, else a free value (60_exceptions.md R152). -/
def State.keys (s : State) : BitVec 16 :=
  match s.inputs with
  | e :: _ => e.keys
  | [] => Config.freeKeys s.cycles s.outputs

/-- `env.rand` of this cycle: the input the state names, else a free value (60_exceptions.md R153). -/
def State.rand (s : State) : Byte :=
  match s.inputs with
  | e :: _ => e.rand
  | [] => Config.freeRand s.cycles s.outputs

/-- `env.collision` of this cycle, asked after the request is emitted: the input the state names, else a free
value (60_exceptions.md R151). -/
def State.collision (s : State) : Bool :=
  match s.inputs with
  | e :: _ => e.collision
  | [] => Config.freeCollision s.cycles s.outputs

/-- The environment of the next cycle: this cycle's inputs are used up (40_cycle.md R73). -/
def State.nextInputs (s : State) : State := { s with inputs := s.inputs.tail, cycles := s.cycles + 1 }

/-- `is_pressed(k)`, or the violation of the contract `key_index: 0..=15` (43_skips.md R95, R96, D4). -/
def State.keyPressed (s : State) (k : Byte) : Except Violation Bool :=
  if Config.keyLimit < k.toNat then .error ⟨.keyIndex, k.toNat⟩ else .ok (s.keys.getLsbD k.toNat)

/-- The lowest pressed key, if any (46_random_timers_keywait.md R127). -/
def lowestKey (keys : BitVec 16) : Option Nat := (List.range 16).find? fun k => keys.getLsbD k

/-! ## Faults (60_exceptions.md R140 to R143) -/

/-- Fault entry: the latch receives the record and nothing else changes. There is no handler, no vector, no mode
and nothing to return to; only reset leaves the faulted state (R141 to R143, R72 of 40_cycle.md). -/
def State.takeFault (s : State) (e : Violation) (opcode : Option Word) : State :=
  { s with fault := some ⟨e.kind, s.pc, opcode, e.info⟩ }

/-- Commits the writes of instruction `i` begun in state `s`, or discards them all and enters the fault it
raised; the recorded opcode is the instruction's word (00_scope.md R7, 60_exceptions.md R141; log 9). -/
def commit (i : Instr) (s : State) : Except Violation State → Host.Outcome State Fault Refusal
  | .ok t => .next t
  | .error e => .next (s.takeFault e (some (encode i)))

end Sys2Proof.Machine
end

