-- ==== Sys2Proof/Machine/Cycle.lean ====
section
/-! DEFINITION. The parts of the cycle around an instruction: fetch, the unrecognized word, the countdown, and
the end of a cycle (40_cycle.md R66 to R75). `step` (Machine/Step.lean) only puts them together. -/

namespace Sys2Proof.Machine

/-- The last address an instruction can be fetched from (40_cycle.md R66). -/
def fetchMax : Nat := Config.memSize - 2

/-- Step 1, fetch: the big-endian word at `PC`, or the violation of an out-of-range fetch (40_cycle.md R66). -/
def State.fetch (s : State) : Except Violation Word :=
  if fetchMax < s.pc.toNat then .error ⟨.fetchOor, s.pc.toNat⟩
  else .ok (wordOfBytes (s.mem.read s.pc.toNat) (s.mem.read (s.pc.toNat + 1)))

/-- Step 3 for an unrecognized word: report it and skip it (30_encoding.md R56, 60_exceptions.md R137). -/
def execUnrecognized (w : Word) (s : State) : Host.Outcome State Fault Refusal :=
  .next (s.emit (.unknownOpcode s.pc w)).advance

/-- A timer counts down by one and stops at 0 (40_cycle.md R70). -/
def countDown (b : Byte) : Byte := if b = 0 then 0 else b - 1

/-- Step 4, countdown: both timers, and the sound event when `ST` goes from 1 to 0 (40_cycle.md R70, R71). -/
def State.countdown (s : State) : State :=
  { s with
    dt := countDown s.dt
    st := countDown s.st
    outputs := if s.st = 1 then s.outputs ++ [.soundEvent] else s.outputs }

/-- The end of a cycle: a faulting cycle stops at the fault, any other counts down and uses up its inputs
(40_cycle.md R69, R72). -/
def State.finishCycle (t : State) : State :=
  if t.fault.isSome then t else t.countdown.nextInputs

/-- The end of a cycle on the outcome of its execute step. -/
def endCycle : Host.Outcome State Fault Refusal → Host.Outcome State Fault Refusal
  | .next t => .next t.finishCycle
  | .fault f => .fault f
  | .refused r => .refused r

/-- Puts a word where the next fetch reads it: at `PC`, and with no fault latched. Where `PC` cannot be fetched
from, it goes to the load address, as a load does (70_reset_and_hazards.md R167; log 8). -/
def State.placeWord (s : State) (w : Word) : State :=
  let pc := if fetchMax < s.pc.toNat then BitVec.ofNat 16 Config.loadAddress else s.pc
  { s with fault := none, pc := pc, mem := s.mem.writeBytes pc.toNat (bytesOfWord w) }

end Sys2Proof.Machine
end

