-- ==== Sys2Proof/Machine/Operands.lean ====
section
/-! DEFINITION. The operand forms of the instruction set (30_encoding.md R54, 45_index_memory.md R121): the
zero-extended address, the indexed jump target, the glyph address, the digits of Fx33, the register block of
Fx55. An immediate `nn` and a register operand are used as they are. -/

namespace Sys2Proof.Machine

/-- `zext_16(nnn)` (30_encoding.md R54). -/
def absAddr (nnn : Addr12) : Word := nnn.setWidth 16

/-- `(zext_16(nnn) + zext_16(V[0])) mod 65536` (42_control_flow.md R88). -/
def State.indexedTarget (s : State) (nnn : Addr12) : Word := absAddr nnn + (s.reg 0#4).setWidth 16

/-- `(I + zext_16(V[x])) mod 65536` (45_index_memory.md R116, D7). -/
def State.indexPlusReg (s : State) (x : Reg) : Word := s.i + (s.reg x).setWidth 16

/-- `zext_16(V[x]) * 5`, not masked (45_index_memory.md R117). -/
def State.glyphAddr (s : State) (x : Reg) : Word := (s.reg x).setWidth 16 * 5

/-- Hundreds, tens, ones (45_index_memory.md R118). -/
def bcdDigits (b : Byte) : List Byte :=
  [BitVec.ofNat 8 (b.toNat / 100), BitVec.ofNat 8 (b.toNat / 10 % 10), BitVec.ofNat 8 (b.toNat % 10)]

/-- How many registers Fx55 and Fx65 move: `x + 1` (45_index_memory.md R119, R120). -/
def blockLen (x : Reg) : Nat := x.toNat + 1

/-- `V[0]` to `V[x]` (45_index_memory.md R119). -/
def State.regBlock (s : State) (x : Reg) : List Byte := s.v.toList.take (blockLen x)

/-- `I <- (I + x + 1) mod 65536` (45_index_memory.md R119, R120). -/
def State.stepIndex (s : State) (x : Reg) : State := s.setI (s.i + BitVec.ofNat 16 (blockLen x))

end Sys2Proof.Machine
end

