-- ==== Sys2Proof/Machine/ControlFlow.lean ====
section
/-! DEFINITION. Control transfer: 00EE, 1nnn, 2nnn, Bnnn (42_control_flow.md). There are no delay slots and no
link register (R89). -/

namespace Sys2Proof.Machine

/-- 00EE, `RET` (42_control_flow.md R85). -/
def execRet (s : State) : Host.Outcome State Fault Refusal :=
  commit .ret s s.popCall

/-- 1nnn, `JP nnn` (42_control_flow.md R86). -/
def execJp (nnn : Addr12) (s : State) : Host.Outcome State Fault Refusal :=
  .next (s.setPc (absAddr nnn))

/-- 2nnn, `CALL nnn`; the pushed address is `PC + 2` (42_control_flow.md R87, 90_conflicts.md C3). -/
def execCall (nnn : Addr12) (s : State) : Host.Outcome State Fault Refusal :=
  commit (.call nnn) s ((s.pushCall (s.pc + 2)).map fun t => t.setPc (absAddr nnn))

/-- Bnnn, `JP V0, nnn` (42_control_flow.md R88). -/
def execJpV0 (nnn : Addr12) (s : State) : Host.Outcome State Fault Refusal :=
  .next (s.setPc (s.indexedTarget nnn))

end Sys2Proof.Machine
end

