-- ==== Sys2Proof/Machine/Flags.lean ====
section
/-! DEFINITION. Every computation of the flag register `VF` (10_state.md R11) and the order in which a result
and a flag are written (44_load_arith.md R100). Sums and comparisons are taken on natural numbers and narrowed
at the end (00_scope.md R6). -/

namespace Sys2Proof.Machine

/-- A flag as the byte `VF` receives: 1 or 0 (10_state.md R11). -/
def flagByte (b : Bool) : Byte := if b then 1 else 0

/-- The carry of an 8-bit addition: the unwrapped sum exceeds 255 (44_load_arith.md R107). -/
def carryFlag (a b : Byte) : Byte := flagByte (decide (a.toNat + b.toNat > 255))

/-- The 8-bit sum (44_load_arith.md R107). -/
def wrapSum (a b : Byte) : Byte := BitVec.ofNat 8 (a.toNat + b.toNat)

/-- The absence of a borrow in `a - b`: 0 only when `b` is strictly greater (44_load_arith.md R108, R110, R112). -/
def notBorrowFlag (a b : Byte) : Byte := flagByte (!decide (b.toNat > a.toNat))

/-- The 8-bit difference, the mathematical `mod` (44_load_arith.md R108, R110). -/
def wrapDiff (a b : Byte) : Byte := BitVec.ofInt 8 ((a.toNat : Int) - (b.toNat : Int))

/-- The bit a right shift pushes out (44_load_arith.md R109). -/
def lsbFlag (a : Byte) : Byte := a &&& 1

/-- The bit a left shift pushes out (44_load_arith.md R111). -/
def msbFlag (a : Byte) : Byte := a >>> 7

/-- Result first, flag second: with `x = 15` the flag survives (44_load_arith.md R100: 8xy4, 8xy5, 8xy7). -/
def State.resultThenFlag (s : State) (x : Reg) (result flag : Byte) : State :=
  (s.setReg x result).setReg vF flag

/-- Flag first, result second: with `x = 15` the result survives (44_load_arith.md R100: 8xy6, 8xyE; log 6). -/
def State.flagThenResult (s : State) (x : Reg) (flag result : Byte) : State :=
  (s.setReg vF flag).setReg x result

/-- The collision flag of Dxyn (41_display.md R81). -/
def State.setCollisionFlag (s : State) (collision : Bool) : State := s.setReg vF (flagByte collision)

end Sys2Proof.Machine
end

