-- ==== Sys2Proof/Machine/Display.lean ====
section
/-! DEFINITION. The display instructions 00E0 and Dxyn (41_display.md). The surface itself is out of scope
(00_scope.md R3): the core emits a request and takes one bit back. -/

namespace Sys2Proof.Machine

/-- 00E0, `CLS` (41_display.md R80). -/
def execCls (s : State) : Host.Outcome State Fault Refusal :=
  .next (s.emit .displayClear).advance

/-- Sends the sprite rows with the coordinates as they are, then stores the answer in `VF`: the coordinates are
read before `VF` is written (41_display.md R81). -/
def State.drawRows (s : State) (x y : Reg) (rows : List Byte) : State :=
  let asked := s.emit (.displayDraw (s.reg x) (s.reg y) rows)
  (asked.setCollisionFlag asked.collision).advance

/-- Dxyn, `DRW Vx, Vy, n` (41_display.md R81, D16 for `n = 0`). -/
def execDrw (x y : Reg) (n : Nat) (s : State) : Host.Outcome State Fault Refusal :=
  commit (.drw x y n) s ((s.memRead s.i.toNat n).map (s.drawRows x y))

end Sys2Proof.Machine
end

