-- ==== Sys2Proof/Machine/IndexMemory.lean ====
section
/-! DEFINITION. The index register and memory: Annn, Fx1E, Fx29, Fx33, Fx55, Fx65 (45_index_memory.md). None
writes `VF` as a side effect. -/

namespace Sys2Proof.Machine

/-- Annn, `LD I, nnn` (45_index_memory.md R115). -/
def execLdI (nnn : Addr12) (s : State) : Host.Outcome State Fault Refusal :=
  .next (s.setI (absAddr nnn)).advance

/-- Fx1E, `ADD I, Vx`, no flag (45_index_memory.md R116). -/
def execAddI (x : Reg) (s : State) : Host.Outcome State Fault Refusal :=
  .next (s.setI (s.indexPlusReg x)).advance

/-- Fx29, `LD F, Vx` (45_index_memory.md R117). -/
def execLdF (x : Reg) (s : State) : Host.Outcome State Fault Refusal :=
  .next (s.setI (s.glyphAddr x)).advance

/-- Fx33, `LD B, Vx` (45_index_memory.md R118). -/
def execLdB (x : Reg) (s : State) : Host.Outcome State Fault Refusal :=
  commit (.ldB x) s ((s.memWrite s.i.toNat (bcdDigits (s.reg x))).map State.advance)

/-- Fx55, `LD [I], Vx` (45_index_memory.md R119). -/
def execStRegs (x : Reg) (s : State) : Host.Outcome State Fault Refusal :=
  commit (.stRegs x) s ((s.memWrite s.i.toNat (s.regBlock x)).map fun t => (t.stepIndex x).advance)

/-- Fx65, `LD Vx, [I]` (45_index_memory.md R120). -/
def execLdRegs (x : Reg) (s : State) : Host.Outcome State Fault Refusal :=
  commit (.ldRegs x) s
    ((s.memRead s.i.toNat (blockLen x)).map fun bytes => ((s.loadRegs bytes).stepIndex x).advance)

end Sys2Proof.Machine
end

