-- ==== Sys2Proof/Machine/LoadArith.lean ====
section
/-! DEFINITION. Register load, arithmetic and logic: 6xnn, 7xnn, 8xy0 to 8xy7, 8xyE (44_load_arith.md). Every
operand is read in the state the instruction starts in, before any write (R100). -/

namespace Sys2Proof.Machine

/-- 6xnn, `LD Vx, nn` (44_load_arith.md R101). -/
def execLdImm (x : Reg) (nn : Byte) (s : State) : Host.Outcome State Fault Refusal :=
  .next (s.setReg x nn).advance

/-- 7xnn, `ADD Vx, nn`, no flag (44_load_arith.md R102). -/
def execAddImm (x : Reg) (nn : Byte) (s : State) : Host.Outcome State Fault Refusal :=
  .next (s.setReg x (wrapSum (s.reg x) nn)).advance

/-- 8xy0, `LD Vx, Vy` (44_load_arith.md R103). -/
def execLdReg (x y : Reg) (s : State) : Host.Outcome State Fault Refusal :=
  .next (s.setReg x (s.reg y)).advance

/-- 8xy1, `OR Vx, Vy` (44_load_arith.md R104). -/
def execOr (x y : Reg) (s : State) : Host.Outcome State Fault Refusal :=
  .next (s.setReg x (s.reg x ||| s.reg y)).advance

/-- 8xy2, `AND Vx, Vy` (44_load_arith.md R105). -/
def execAnd (x y : Reg) (s : State) : Host.Outcome State Fault Refusal :=
  .next (s.setReg x (s.reg x &&& s.reg y)).advance

/-- 8xy3, `XOR Vx, Vy` (44_load_arith.md R106). -/
def execXor (x y : Reg) (s : State) : Host.Outcome State Fault Refusal :=
  .next (s.setReg x (s.reg x ^^^ s.reg y)).advance

/-- 8xy4, `ADD Vx, Vy`: the sum, then the carry (44_load_arith.md R107). -/
def execAddReg (x y : Reg) (s : State) : Host.Outcome State Fault Refusal :=
  .next (s.resultThenFlag x (wrapSum (s.reg x) (s.reg y)) (carryFlag (s.reg x) (s.reg y))).advance

/-- 8xy5, `SUB Vx, Vy`: the difference, then the not-borrow (44_load_arith.md R108). -/
def execSub (x y : Reg) (s : State) : Host.Outcome State Fault Refusal :=
  .next (s.resultThenFlag x (wrapDiff (s.reg x) (s.reg y)) (notBorrowFlag (s.reg x) (s.reg y))).advance

/-- 8xy6, `SHR Vx`: the bit shifted out, then the shifted value; `y` is ignored (44_load_arith.md R109; log 6). -/
def execShr (x _y : Reg) (s : State) : Host.Outcome State Fault Refusal :=
  .next (s.flagThenResult x (lsbFlag (s.reg x)) (s.reg x >>> 1)).advance

/-- 8xy7, `SUBN Vx, Vy`: the reversed difference, then the not-borrow (44_load_arith.md R110). -/
def execSubn (x y : Reg) (s : State) : Host.Outcome State Fault Refusal :=
  .next (s.resultThenFlag x (wrapDiff (s.reg y) (s.reg x)) (notBorrowFlag (s.reg y) (s.reg x))).advance

/-- 8xyE, `SHL Vx`: the bit shifted out, then the shifted value; `y` is ignored (44_load_arith.md R111; log 6). -/
def execShl (x _y : Reg) (s : State) : Host.Outcome State Fault Refusal :=
  .next (s.flagThenResult x (msbFlag (s.reg x)) (s.reg x <<< 1)).advance

end Sys2Proof.Machine
end

