-- ==== Sys2Proof/Machine/RandomTimersKey.lean ====
section
/-! DEFINITION. Random, timers and key wait: Cxnn, Fx07, Fx0A, Fx15, Fx18 (46_random_timers_keywait.md). -/

namespace Sys2Proof.Machine

/-- Cxnn, `RND Vx, nn` (46_random_timers_keywait.md R125). -/
def execRnd (x : Reg) (nn : Byte) (s : State) : Host.Outcome State Fault Refusal :=
  .next (s.setReg x (nn &&& s.rand)).advance

/-- Fx07, `LD Vx, DT`: the value before this cycle's countdown (46_random_timers_keywait.md R126). -/
def execLdVxDt (x : Reg) (s : State) : Host.Outcome State Fault Refusal :=
  .next (s.setReg x s.dt).advance

/-- The two writes of Fx0A: with a key pressed `V[x]` receives the lowest and `PC` goes on; with none, both keep
their value (46_random_timers_keywait.md R127). -/
def State.keyWait (s : State) (x : Reg) (key : Option Nat) : State :=
  (s.setReg x ((key.map (BitVec.ofNat 8)).getD (s.reg x))).setPc (if key.isSome then s.pc + 2 else s.pc)

/-- Fx0A, `LD Vx, K` (46_random_timers_keywait.md R127, 90_conflicts.md C4). -/
def execLdVxK (x : Reg) (s : State) : Host.Outcome State Fault Refusal :=
  .next (s.keyWait x (lowestKey s.keys))

/-- Fx15, `LD DT, Vx` (46_random_timers_keywait.md R128). -/
def execLdDtVx (x : Reg) (s : State) : Host.Outcome State Fault Refusal :=
  .next (s.setDt (s.reg x)).advance

/-- Fx18, `LD ST, Vx` (46_random_timers_keywait.md R129). -/
def execLdStVx (x : Reg) (s : State) : Host.Outcome State Fault Refusal :=
  .next (s.setSt (s.reg x)).advance

end Sys2Proof.Machine
end

