-- ==== Sys2Proof/Machine/Skips.lean ====
section
/-! DEFINITION. The conditional skips 3xnn, 4xnn, 5xy0, 9xy0, Ex9E, ExA1 (43_skips.md). -/

namespace Sys2Proof.Machine

/-- 3xnn, `SE Vx, nn` (43_skips.md R91). -/
def execSeImm (x : Reg) (nn : Byte) (s : State) : Host.Outcome State Fault Refusal :=
  .next (s.skipIf (decide (s.reg x = nn)))

/-- 4xnn, `SNE Vx, nn` (43_skips.md R92). -/
def execSneImm (x : Reg) (nn : Byte) (s : State) : Host.Outcome State Fault Refusal :=
  .next (s.skipIf (decide (s.reg x ≠ nn)))

/-- 5xy0, `SE Vx, Vy` (43_skips.md R93). -/
def execSeReg (x y : Reg) (s : State) : Host.Outcome State Fault Refusal :=
  .next (s.skipIf (decide (s.reg x = s.reg y)))

/-- 9xy0, `SNE Vx, Vy` (43_skips.md R94). -/
def execSneReg (x y : Reg) (s : State) : Host.Outcome State Fault Refusal :=
  .next (s.skipIf (decide (s.reg x ≠ s.reg y)))

/-- Ex9E, `SKP Vx`: the key number is the value of `V[x]` (43_skips.md R95). -/
def execSkp (x : Reg) (s : State) : Host.Outcome State Fault Refusal :=
  commit (.skp x) s ((s.keyPressed (s.reg x)).map fun pressed => s.skipIf pressed)

/-- ExA1, `SKNP Vx` (43_skips.md R96). -/
def execSknp (x : Reg) (s : State) : Host.Outcome State Fault Refusal :=
  commit (.sknp x) s ((s.keyPressed (s.reg x)).map fun pressed => s.skipIf (!pressed))

end Sys2Proof.Machine
end

