-- ==== Sys2Proof/Machine/Step.lean ====
section
/-! DEFINITION. One cycle of the core (40_cycle.md R65, R69, R75): fetch, decode, execute, countdown. -/

namespace Sys2Proof.Machine

/-- Steps 2 and 3: the fetched word decodes to an instruction, which executes, or is reported and skipped
(40_cycle.md R67, R68; 30_encoding.md R56). -/
def runWord (w : Word) (s : State) : Host.Outcome State Fault Refusal :=
  match decodeWord w with
  | .ok i => exec i s
  | .error _ => execUnrecognized w s

/-- One cycle. A faulted core has no step (60_exceptions.md R142); a fetch fault enters the latch with no opcode
(40_cycle.md R66, R75); any other cycle runs its word and ends. -/
def step (s : State) : Host.Outcome State Fault Refusal :=
  match s.fault with
  | some r => .fault (.halted r)
  | none =>
    match s.fetch with
    | .error e => .next (s.takeFault e none)
    | .ok w => endCycle (runWord w s)

/-- The state with a table row's word stored where `step` fetches next (log 8). -/
def State.withFetchWord (s : State) (nbits w : Nat) : State := s.placeWord (tableWord nbits w)

end Sys2Proof.Machine
end

