-- ==== Sys2Proof/Machine/Boot.lean ====
section
/-! DEFINITION. What reset and program load do to the core (70_reset_and_hazards.md R165, R167, R169). They are
operations on the state, not steps; when the host may apply them is `Session.move` (Machine/Session.lean, R183). -/

namespace Sys2Proof.Machine

/-- `reset()` with the parameter `FONT`, an argument of each reset (log 11): every piece of the spec's state at its reset value. It is the only way
out of the faulted state (70_reset_and_hazards.md R165, 60_exceptions.md R142, D21). Reset emits no event and does
not touch the environment, so the model's own fields stay. -/
def State.resetCore (font : Vector Byte 80) (s : State) : State :=
  { State.reset with
    mem := Memory.writeBytes [] 0 font.toList
    inputs := s.inputs
    cycles := s.cycles
    outputs := s.outputs }

/-- The effect of `load(IMAGE)`: at most 3584 bytes copied to 0x200, the rest dropped, `PC` at 0x200, nothing else
changed (70_reset_and_hazards.md R167). The host applies it only directly after a reset: `Session.move` refuses any
other load (R183, D21; log 8). -/
def State.load (image : List Byte) (s : State) : State :=
  { s with
    mem := s.mem.writeBytes Config.loadAddress (image.take Config.imageMax)
    pc := BitVec.ofNat 16 Config.loadAddress }

/-- The launch state of a run: load after reset, no cycle between (70_reset_and_hazards.md R169). -/
def State.launch (font : Vector Byte 80) (image : List Byte) (s : State) : State :=
  (s.resetCore font).load image

end Sys2Proof.Machine
end

