-- ==== Sys2Proof/Machine/Session.lean ====
section
/-! DEFINITION. The host and its moves (70_reset_and_hazards.md R183, R169; 60_exceptions.md R152; log 8, log 11): in which
order reset, load and cycles may come. The host stands outside the core, so nothing here is state of the core. -/

namespace Sys2Proof.Machine

/-- Where the host stands in the order of its moves (70_reset_and_hazards.md R183). -/
inductive HostPhase where
  /-- Reset, and neither an image loaded nor a cycle invoked since: the one place for a load. -/
  | fresh
  /-- An image was loaded or a cycle invoked since the last reset. -/
  | started
  /-- The host has stopped invoking cycles. -/
  | stopped
  deriving DecidableEq, Repr

/-- The host with its core and the key states the input source owns (70_reset_and_hazards.md R183,
60_exceptions.md R152). -/
structure Session where
  core : State
  phase : HostPhase
  /-- Bit `k` is 1 when key `k` is pressed. -/
  keys : BitVec 16
  deriving DecidableEq, Repr

/-- The host's moves, one constructor per row of the table (70_reset_and_hazards.md R183). -/
inductive HostMove where
  /-- `reset()` (70_reset_and_hazards.md R165). The spec has one parameter `FONT` and does not say whether a later
  reset may be given another. DESIGN CHOICE, safe: each reset brings its own (log 11). -/
  | reset (font : Vector Byte 80)
  | load (image : List Byte)
  /-- `set_pressed(key, pressed)` of the input source (60_exceptions.md R152). -/
  | setPressed (key : BitVec 4) (pressed : Bool)
  /-- Invokes one cycle; the arguments are what the random byte source and the display surface answer in it
  (40_cycle.md R73). -/
  | cycle (rand : Byte) (collision : Bool)
  | present
  | stop
  deriving DecidableEq, Repr

/-- Why the host has no such move where it stands. -/
inductive MoveRefusal where
  /-- A load anywhere but directly after a reset: "load happens only directly after a reset, before any cycle"
  (92_eei_decisions.md D21, 93_implementation_defined.md U14). Unsafe if a real host does it (R183; log 8). -/
  | loadOutOfTurn
  /-- Any move after the host has stopped: "the run ends" (70_reset_and_hazards.md R183). Safe. -/
  | runEnded
  deriving DecidableEq, Repr

/-- The machine created at startup, with the parameter `FONT` and the key states there are
(70_reset_and_hazards.md R165). -/
def Session.start (font : Vector Byte 80) (keys : BitVec 16) : Session :=
  ⟨State.reset.resetCore font, .fresh, keys⟩

/-- The key states after `set_pressed` (60_exceptions.md R152). -/
def setKey (keys : BitVec 16) (key : BitVec 4) (pressed : Bool) : BitVec 16 :=
  if pressed then keys ||| (1#16 <<< key.toNat) else keys &&& ~~~(1#16 <<< key.toNat)

/-- The core after an invocation with these inputs. In the faulted state an invocation does nothing
(60_exceptions.md R142). -/
def State.invoke (s : State) (e : EnvInputs) : State :=
  match step { s with inputs := [e] } with
  | .next t => t
  | .fault _ => s
  | .refused _ => s

/-- One move of the host: reset, keys, cycle and present between any two cycles, load only in the phase `fresh`,
which it ends, and nothing after the stop (70_reset_and_hazards.md R183, D21). -/
def Session.move (h : Session) (m : HostMove) : Except MoveRefusal Session :=
  match h.phase, m with
  | .stopped, _ => .error .runEnded
  | _, .reset font => .ok { h with core := h.core.resetCore font, phase := .fresh }
  | .fresh, .load image => .ok { h with core := h.core.load image, phase := .started }
  | .started, .load _ => .error .loadOutOfTurn
  | _, .setPressed key pressed => .ok { h with keys := setKey h.keys key pressed }
  | _, .cycle rand collision => .ok { h with core := h.core.invoke ⟨h.keys, rand, collision⟩, phase := .started }
  | _, .present => .ok h
  | _, .stop => .ok { h with phase := .stopped }

/-- The host's moves in turn, up to the first it does not have. -/
def Session.moves : Session → List HostMove → Except MoveRefusal Session
  | h, [] => .ok h
  | h, m :: ms =>
    match h.move m with
    | .ok h' => h'.moves ms
    | .error e => .error e

end Sys2Proof.Machine
end

