-- ==== Sys2Proof/Safety.lean ====
section
/-! DEFINITION. The terms claims are made in: what an instruction leaves unchanged, the table of faults, the
invariant of the core, and what a safe run is. -/

namespace Sys2Proof.Machine

/-! ## Frames -/

/-- What an instruction may change besides `PC`. -/
structure Footprint where
  /-- General registers. -/
  regs : List Reg := []
  index : Bool := false
  /-- `STACK` and `SP`. -/
  stack : Bool := false
  delay : Bool := false
  sound : Bool := false
  /-- The first stored byte and how many there are. -/
  memAt : Nat := 0
  memLen : Nat := 0
  outputs : Bool := false
  deriving DecidableEq, Repr

/-- Everything outside the footprint, and the fault latch and the model's own `inputs` and `cycles` (log 2) always,
are in `t` what they are in `s`. `PC` may change. -/
def Unchanged (f : Footprint) (s t : State) : Prop :=
  (∀ r, r ∉ f.regs → t.reg r = s.reg r) ∧
  (f.index = false → t.i = s.i) ∧
  (f.stack = false → t.stack = s.stack ∧ t.sp = s.sp) ∧
  (f.delay = false → t.dt = s.dt) ∧
  (f.sound = false → t.st = s.st) ∧
  (∀ a, a < f.memAt ∨ f.memAt + f.memLen ≤ a → t.mem.read a = s.mem.read a) ∧
  (f.outputs = false → t.outputs = s.outputs) ∧
  t.fault = s.fault ∧ t.inputs = s.inputs ∧ t.cycles = s.cycles

/-! ## Faults -/

/-- The access from address `addr`, `len` bytes long, has a byte and leaves memory (20_memory.md R36). -/
def accessViolation (addr len : Nat) : Option Violation :=
  if 0 < len ∧ 4096 ≤ addr + len - 1 then some ⟨.memOor, max addr 4096⟩ else none

/-- The table of faults an instruction raises in execute, with what each records (60_exceptions.md R136). -/
def faultOf (i : Instr) (s : State) : Option Violation :=
  match i with
  | .drw _ _ n => accessViolation s.i.toNat n
  | .ldB _ => accessViolation s.i.toNat 3
  | .stRegs x => accessViolation s.i.toNat (x.toNat + 1)
  | .ldRegs x => accessViolation s.i.toNat (x.toNat + 1)
  | .call _ => if s.sp = 15#4 then some ⟨.stackOverflow, 15⟩ else none
  | .ret => if s.sp = 0#4 then some ⟨.stackUnderflow, 0⟩ else none
  | .skp x => if 15 < (s.reg x).toNat then some ⟨.keyIndex, (s.reg x).toNat⟩ else none
  | .sknp x => if 15 < (s.reg x).toNat then some ⟨.keyIndex, (s.reg x).toNat⟩ else none
  | _ => none

/-- The big-endian word at `PC` (20_memory.md R37). -/
def State.wordAtPc (s : State) : Word := s.mem.read s.pc.toNat ++ s.mem.read (s.pc.toNat + 1)

/-- The record a cycle that starts in `s` latches, if it faults: the fetch check first, then the one check of the
instruction (60_exceptions.md R136, R139). -/
def faultRecordOf (s : State) : Option FaultRecord :=
  if 4094 < s.pc.toNat then some ⟨.fetchOor, s.pc, none, s.pc.toNat⟩
  else
    match decodeWord s.wordAtPc with
    | .ok i => (faultOf i s).map fun e => ⟨e.kind, s.pc, some s.wordAtPc, e.info⟩
    | .error _ => none

/-! ## The invariant -/

/-- The invariant of the core: memory in canonical form (log 1), `PC` in its reachable range and every return
address on the stack at most 4096 (10_state.md R24), and a latched fault that the state it left untouched
explains (60_exceptions.md R140, R141). -/
structure State.Inv (s : State) : Prop where
  mem_wf : s.mem.wf
  pc_le : s.pc.toNat ≤ 0x10FE
  stack_le : ∀ k (h : k < 16), k < s.sp.toNat → s.stack[k].toNat ≤ 4096
  fault_explained : ∀ r, s.fault = some r → faultRecordOf s = some r

/-! ## Runs -/

/-- The core has not faulted (60_exceptions.md R142). -/
abbrev State.running (s : State) : Prop := s.fault = none

/-- A run of `k` cycles that ends in a state from which the core goes on. -/
def SafeRun (k : Nat) (s : State) : Prop :=
  ∃ t, Host.Core.run Sys2Proof.core k s = .next t ∧ t.running

/-- The nearest thing to a stop: the word at `PC` is a 1nnn to its own address (40_cycle.md R77, D20). The core
does not stop there. -/
def State.atSelfJump (s : State) : Prop :=
  s.pc.toNat ≤ 4094 ∧ ∃ nnn : Addr12, decodeWord s.wordAtPc = .ok (.jp nnn) ∧ nnn.toNat = s.pc.toNat

end Sys2Proof.Machine
end

