-- ==== Sys2Proof/Certificates/Slice0/Obligations.lean ====
section
/-! DEFINITION. The statements for the provers. Each docstring names the rules of spec/ it formalises; where a rule
rests on a decision or a derivation of the spec's own, the docstring says so. -/

open Sys2Proof Sys2Proof.Machine

/-! ## Encoding (30_encoding.md) -/

/-- Decoding the word of a well-formed instruction gives the instruction back, every operand included
(30_encoding.md sections 1, 2). -/
def Obligations.DecodeInvertsEncode : Prop :=
  ∀ i : Instr, i.wf = true → decodeWord (encode i) = .ok i

/-- What decodes is well-formed, and encoding it gives the word back, ignored fields included
(30_encoding.md sections 1, 2). -/
def Obligations.EncodeInvertsDecode : Prop :=
  ∀ (w : Word) (i : Instr), decodeWord w = .ok i → i.wf = true ∧ encode i = w

/-- A word selects a row of the opcode map by match and mask exactly when it decodes to an instruction of that row
(30_encoding.md section 2; the strict reading of the patterns is decision D12, log 7). -/
def Obligations.DecoderFollowsOpcodeMap : Prop :=
  ∀ r ∈ opcodeMap, ∀ w : Word, r.selects w ↔ ∃ i, decodeWord w = .ok i ∧ i.mnemonic = r.mnemonic

/-- "No two rows overlap" (30_encoding.md section 2). -/
def Obligations.OpcodeMapRowsAreDisjoint : Prop :=
  ∀ r ∈ opcodeMap, ∀ r' ∈ opcodeMap, ∀ w : Word, r.selects w → r'.selects w → r = r'

/-- The decoder is total, and the unrecognized words are those of the six families, no others (30_encoding.md
section 3; decision D12, log 7). -/
def Obligations.UnrecognizedWordsByFamily : Prop :=
  ∀ w : Word,
    ((∃ i, decodeWord w = .ok i) ∨ decodeWord w = .error (.unrecognized w)) ∧
    (decodeWord w = .error (.unrecognized w) ↔
      (w.toNat / 4096 = 0x0 ∧ w.toNat ≠ 0x00E0 ∧ w.toNat ≠ 0x00EE) ∨
      (w.toNat / 4096 = 0x5 ∧ w.toNat % 16 ≠ 0) ∨
      (w.toNat / 4096 = 0x8 ∧ w.toNat % 16 ∈ [0x8, 0x9, 0xA, 0xB, 0xC, 0xD, 0xF]) ∨
      (w.toNat / 4096 = 0x9 ∧ w.toNat % 16 ≠ 0) ∨
      (w.toNat / 4096 = 0xE ∧ w.toNat % 256 ∉ [0x9E, 0xA1]) ∨
      (w.toNat / 4096 = 0xF ∧ w.toNat % 256 ∉ [0x07, 0x0A, 0x15, 0x18, 0x1E, 0x29, 0x33, 0x55, 0x65]))

/-- The decode fields, with the masks and shifts of 30_encoding.md R51, and how they overlap. -/
def Obligations.OpcodeFieldsAreMasksAndShifts : Prop :=
  ∀ w : Word,
    (Field.op w).toNat = w.toNat >>> 12 ∧
    (Field.x w).toNat = (w.toNat &&& 0x0F00) >>> 8 ∧
    (Field.y w).toNat = (w.toNat &&& 0x00F0) >>> 4 ∧
    (Field.n w).toNat = w.toNat &&& 0x000F ∧
    (Field.nn w).toNat = w.toNat &&& 0x00FF ∧
    (Field.nnn w).toNat = w.toNat &&& 0x0FFF ∧
    Field.nnn w = Field.x w ++ Field.y w ++ Field.n w ∧
    Field.nn w = Field.y w ++ Field.n w

/-- A few words written out from the patterns, one of each format (30_encoding.md section 2), and one rejected by
the strict reading of the patterns (decision D12, log 7). -/
def Obligations.SampleWordsDecode : Prop :=
  decodeWord 0x00EE#16 = .ok .ret ∧
  decodeWord 0x2ABC#16 = .ok (.call 0xABC#12) ∧
  decodeWord 0x7C4E#16 = .ok (.addImm 0xC#4 0x4E#8) ∧
  decodeWord 0x8A37#16 = .ok (.subn 0xA#4 0x3#4) ∧
  decodeWord 0xD12F#16 = .ok (.drw 0x1#4 0x2#4 15) ∧
  decodeWord 0xEBA1#16 = .ok (.sknp 0xB#4) ∧
  decodeWord 0xF355#16 = .ok (.stRegs 0x3#4) ∧
  decodeWord 0x5121#16 = .error (.unrecognized 0x5121#16)

/-! ## The cycle (40_cycle.md) -/

/-- When the bytes at `PC` decode to an instruction, the cycle is its execute step in the state the cycle starts
in, and then, unless it faulted, the countdown of both timers with the sound event of an `ST` going from 1 to 0
(40_cycle.md sections 1 to 5, 8; the event is decision D13, the latch of a faulting cycle decision D5). That the cycle
uses up one record of `inputs` and adds 1 to `cycles` is the model's choice (log 2). -/
def Obligations.StepRunsTheDecodedInstruction : Prop :=
  ∀ (s t : State) (i : Instr), s.fault = none → s.pc.toNat ≤ 4094 →
    decodeWord (s.mem.read s.pc.toNat ++ s.mem.read (s.pc.toNat + 1)) = .ok i →
    exec i s = .next t →
    (t.fault = none →
      step s = .next { t with
        dt := BitVec.ofNat 8 (t.dt.toNat - 1)
        st := BitVec.ofNat 8 (t.st.toNat - 1)
        outputs := t.outputs ++ (if t.st.toNat = 1 then [.soundEvent] else [])
        inputs := t.inputs.tail
        cycles := t.cycles + 1 }) ∧
    (t.fault ≠ none → step s = .next t)

/-- An unrecognized word is reported and skipped: `PC + 2`, the diagnostic with address and word, the countdown, and
nothing else (30_encoding.md section 3, 60_exceptions.md section 1; the diagnostic's form is decision D19, the sound
event D13). That the cycle uses up one record of `inputs` and adds 1 to `cycles` is the model's choice (log 2). -/
def Obligations.UnrecognizedWordIsReportedAndSkipped : Prop :=
  ∀ (s : State) (w : Word), s.fault = none → s.pc.toNat ≤ 4094 →
    w = s.mem.read s.pc.toNat ++ s.mem.read (s.pc.toNat + 1) →
    decodeWord w = .error (.unrecognized w) →
    ∃ t, step s = .next t ∧ t.pc = s.pc + 2 ∧
      t.outputs = s.outputs ++ [.unknownOpcode s.pc w] ++ (if s.st.toNat = 1 then [.soundEvent] else []) ∧
      t.dt.toNat = s.dt.toNat - 1 ∧ t.st.toNat = s.st.toNat - 1 ∧
      t.v = s.v ∧ t.i = s.i ∧ t.stack = s.stack ∧ t.sp = s.sp ∧ t.mem = s.mem ∧ t.fault = none ∧
      t.inputs = s.inputs.tail ∧ t.cycles = s.cycles + 1

/-- A fetch past 4094 latches FETCH_OOR with no opcode and changes nothing else (40_cycle.md section 2,
60_exceptions.md section 4; decisions D1, D5). -/
def Obligations.FetchOutOfRangeLatchesFault : Prop :=
  ∀ s : State, s.fault = none → 4094 < s.pc.toNat →
    step s = .next { s with fault := some ⟨.fetchOor, s.pc, none, s.pc.toNat⟩ }

/-- The faulted core has no step, however often it is invoked, until a reset clears the latch (60_exceptions.md
section 4; decisions D5, D21; that the model answers the fault `halted` is log 4). -/
def Obligations.FaultedCoreTakesNoStep : Prop :=
  ∀ (s : State) (r : FaultRecord), s.fault = some r →
    (∀ k, Host.Core.run Sys2Proof.core (k + 1) s = .fault (.halted r)) ∧
    ∀ font, (s.resetCore font).fault = none

/-- After `k` countdowns each timer is `k` lower and stopped at 0, and the sound event was emitted once if `ST`
reached 0 and not at all otherwise (40_cycle.md section 5; the event is decision D13). -/
def Obligations.CountdownStopsAtZero : Prop :=
  ∀ (k : Nat) (s : State),
    (State.countdown^[k] s).dt.toNat = s.dt.toNat - k ∧
    (State.countdown^[k] s).st.toNat = s.st.toNat - k ∧
    (State.countdown^[k] s).outputs =
      s.outputs ++ (if 0 < s.st.toNat ∧ s.st.toNat ≤ k then [.soundEvent] else []) ∧
    (State.countdown^[k] s).pc = s.pc ∧
    Unchanged { delay := true, sound := true, outputs := true } s (State.countdown^[k] s)

/-- Every instruction answers a next state in every state, and the core has a step exactly when it has not faulted
(40_cycle.md section 1, 60_exceptions.md section 4; decision D5, log 4). -/
def Obligations.RunningCoreCompletesEveryCycle : Prop :=
  (∀ (i : Instr) (s : State), ∃ t, exec i s = .next t) ∧
  ∀ s : State, (∃ t, step s = .next t) ↔ s.fault = none

/-- A cycle adds to the outputs at most the event of its execute step and then the sound event; a faulting cycle
adds none; of the instructions only 00E0 and Dxyn emit (40_cycle.md section 7, 60_exceptions.md section 3; decisions
D5, D13, D15, D17). -/
def Obligations.CycleEmitsAtMostTwoEvents : Prop :=
  (∀ s t : State, step s = .next t →
    ∃ first last : List Event, t.outputs = s.outputs ++ first ++ last ∧
      first.length ≤ 1 ∧ Event.soundEvent ∉ first ∧ (last = [] ∨ last = [.soundEvent]) ∧
      (t.fault ≠ none → first = [] ∧ last = [])) ∧
  ∀ (i : Instr) (s t : State), exec i s = .next t → t.outputs ≠ s.outputs →
    i = .cls ∨ ∃ x y n, i = .drw x y n

/-! ## Faults (60_exceptions.md) -/

/-- The execute step of an instruction faults exactly as the table of fault kinds says, recording kind, `PC`, the
instruction's word and the offending address or index, and then changes nothing else (60_exceptions.md sections 1, 4;
decisions D1 to D5; the recorded word is log 9). -/
def Obligations.ExecuteFaultsFollowTheTable : Prop :=
  ∀ (i : Instr) (s t : State), exec i s = .next t →
    (faultOf i s = none → t.fault = s.fault) ∧
    ∀ e, faultOf i s = some e →
      t = { s with fault := some ⟨e.kind, s.pc, some (encode i), e.info⟩ }

/-- Over every state: a cycle latches the fault the state calls for, with the word fetched, the fetch check coming
first, and then leaves all else as it was; where the state calls for none, it latches none (60_exceptions.md
sections 1, 3, 4; decisions D1 to D5, D17). -/
def Obligations.CycleLatchesTheFaultOfItsState : Prop :=
  ∀ s : State, s.fault = none →
    ∃ t, step s = .next t ∧ t.fault = faultRecordOf s ∧
      ∀ r, faultRecordOf s = some r → t = { s with fault := some r }

/-! ## The invariant -/

/-- Every step keeps the invariant: memory in canonical form, `PC` at most 0x10FE, return addresses at most 4096, a
latched fault explained by the state (10_state.md section 4 (derived there), 60_exceptions.md section 4; decision D5;
the canonical form is the model's own, log 1). -/
def Obligations.StepKeepsInvariant : Prop :=
  ∀ s t : State, s.Inv → step s = .next t → t.Inv

/-- The state right after reset meets the invariant. -/
def Obligations.ResetMeetsInvariant : Prop := State.reset.Inv

/-- Whatever the font, the image and the state before, the launch state meets the invariant
(70_reset_and_hazards.md section 2). -/
def Obligations.LaunchMeetsInvariant : Prop :=
  ∀ (font : Vector Byte 80) (image : List Byte) (s : State), (s.launch font image).Inv

/-! ## Who writes what, over all instructions -/

/-- The ways `PC` changes are exactly those of the table (10_state.md R13): by instruction, and not at all in an
execute step that faults (decision D5). -/
def Obligations.PcMovesOnlyAsListed : Prop :=
  ∀ (i : Instr) (s t : State), exec i s = .next t →
    (faultOf i s ≠ none → t.pc = s.pc) ∧
    (faultOf i s = none →
      match i with
      | .jp nnn => t.pc.toNat = nnn.toNat
      | .call nnn => t.pc.toNat = nnn.toNat
      | .jpV0 nnn => t.pc.toNat = nnn.toNat + (s.reg 0#4).toNat
      | .ret => ∀ k (h : k < 16), k + 1 = s.sp.toNat → t.pc = s.stack[k]
      | .seImm x nn => t.pc = if s.reg x = nn then s.pc + 4 else s.pc + 2
      | .sneImm x nn => t.pc = if s.reg x = nn then s.pc + 2 else s.pc + 4
      | .seReg x y => t.pc = if s.reg x = s.reg y then s.pc + 4 else s.pc + 2
      | .sneReg x y => t.pc = if s.reg x = s.reg y then s.pc + 2 else s.pc + 4
      | .skp x => t.pc = if s.keys.getLsbD (s.reg x).toNat then s.pc + 4 else s.pc + 2
      | .sknp x => t.pc = if s.keys.getLsbD (s.reg x).toNat then s.pc + 2 else s.pc + 4
      | .ldVxK _ => t.pc = if s.keys = 0 then s.pc else s.pc + 2
      | _ => t.pc = s.pc + 2)

/-- Only 2nnn writes an entry of the call stack, only 2nnn and 00EE move `SP`, and no instruction touches
`STACK[15]` (10_state.md sections 5, 6; the last clause is derived there and rests on `SP_LIMIT = 15`, decision D2,
log 5). -/
def Obligations.OnlyCallAndReturnMoveTheStack : Prop :=
  ∀ (i : Instr) (s t : State), exec i s = .next t →
    (t.stack ≠ s.stack → ∃ nnn, i = .call nnn) ∧
    (t.sp ≠ s.sp → i = .ret ∨ ∃ nnn, i = .call nnn) ∧
    t.stack[15] = s.stack[15]

/-- `I` is written by Annn, Fx1E, Fx29, Fx55 and Fx65 and by nothing else (10_state.md section 5). -/
def Obligations.OnlyListedInstructionsWriteIndex : Prop :=
  ∀ (i : Instr) (s t : State), exec i s = .next t → t.i ≠ s.i →
    (∃ nnn, i = .ldI nnn) ∨ ∃ x, i = .addI x ∨ i = .ldF x ∨ i = .stRegs x ∨ i = .ldRegs x

/-- Memory is written by Fx33 and Fx55 and by nothing else (10_state.md section 7, 20_memory.md section 5). -/
def Obligations.OnlyStoresWriteMemory : Prop :=
  ∀ (i : Instr) (s t : State), exec i s = .next t → t.mem ≠ s.mem → ∃ x, i = .ldB x ∨ i = .stRegs x

/-- In execute, `DT` is written by Fx15 and `ST` by Fx18 and by nothing else (10_state.md section 5,
60_exceptions.md section 7). -/
def Obligations.OnlyTimerInstructionsWriteTimers : Prop :=
  ∀ (i : Instr) (s t : State), exec i s = .next t →
    (t.dt ≠ s.dt → ∃ x, i = .ldDtVx x) ∧ (t.st ≠ s.st → ∃ x, i = .ldStVx x)

/-- `VF` changes only under the six instructions that write it as a side effect, which leave 0 or 1 in it unless a
shift names it as its destination, and under instructions that name `V[15]` as a destination (10_state.md section 3;
a shift with `x = 15` is decision D6, log 6). -/
def Obligations.FlagRegisterWriters : Prop :=
  ∀ (i : Instr) (s t : State), exec i s = .next t → faultOf i s = none →
    match i with
    | .addReg _ _ => t.reg vF = 0 ∨ t.reg vF = 1
    | .sub _ _ => t.reg vF = 0 ∨ t.reg vF = 1
    | .subn _ _ => t.reg vF = 0 ∨ t.reg vF = 1
    | .drw _ _ _ => t.reg vF = 0 ∨ t.reg vF = 1
    | .shr x _ => x ≠ vF → t.reg vF = 0 ∨ t.reg vF = 1
    | .shl x _ => x ≠ vF → t.reg vF = 0 ∨ t.reg vF = 1
    | .ldImm x _ => x ≠ vF → t.reg vF = s.reg vF
    | .addImm x _ => x ≠ vF → t.reg vF = s.reg vF
    | .ldReg x _ => x ≠ vF → t.reg vF = s.reg vF
    | .or x _ => x ≠ vF → t.reg vF = s.reg vF
    | .and x _ => x ≠ vF → t.reg vF = s.reg vF
    | .xor x _ => x ≠ vF → t.reg vF = s.reg vF
    | .rnd x _ => x ≠ vF → t.reg vF = s.reg vF
    | .ldVxDt x => x ≠ vF → t.reg vF = s.reg vF
    | .ldVxK x => x ≠ vF → t.reg vF = s.reg vF
    | .ldRegs x => x ≠ vF → t.reg vF = s.reg vF
    | _ => t.v = s.v

/-- No instruction reads `ST`: with another sound timer each instruction does the same, and all but Fx18 keep that
timer (10_state.md section 5). -/
def Obligations.SoundTimerIsNeverRead : Prop :=
  ∀ (i : Instr) (s t : State) (b : Byte), exec i s = .next t →
    exec i (s.setSt b) =
      .next (match i with
        | .ldStVx _ => t
        | _ => t.setSt b)

/-- An instruction depends on an input of the cycle only if it consults it: the keys under Ex9E, ExA1 and Fx0A, the
random byte under Cxnn, the collision bit under Dxyn (40_cycle.md section 7; the record of inputs is log 2). -/
def Obligations.EnvironmentReachesOnlyItsConsumers : Prop :=
  ∀ (i : Instr) (s t : State) (e e' : EnvInputs) (rest : List EnvInputs),
    exec i { s with inputs := e :: rest } = .next t →
    (match i with
      | .skp _ => e'.keys = e.keys
      | .sknp _ => e'.keys = e.keys
      | .ldVxK _ => e'.keys = e.keys
      | .rnd _ _ => e'.rand = e.rand
      | .drw _ _ _ => e'.collision = e.collision
      | _ => True) →
    exec i { s with inputs := e' :: rest } = .next { t with inputs := e' :: rest }

/-! ## Display (41_display.md) -/

/-- 00E0 (41_display.md R80). -/
def Obligations.ClearScreenEmitsItsRequest : Prop :=
  ∀ s : State, ∃ t, exec .cls s = .next t ∧ t.pc = s.pc + 2 ∧
    t.outputs = s.outputs ++ [.displayClear] ∧ Unchanged { outputs := true } s t

/-- Dxyn: the request with the old `V[x]`, `V[y]` and the `n` bytes at `I`, the answer in `VF`; past the end of
memory MEM_OOR, and then nothing is sent (41_display.md section R81; decisions D1, D5, and D16 for `n = 0`). That the
answer is the collision bit of the first record of `inputs` is the model's choice (log 2; its form is D15). -/
def Obligations.DrawSendsTheSpriteAtIndex : Prop :=
  ∀ (x y : Reg) (n : Nat) (s : State),
    (n = 0 ∨ s.i.toNat + n ≤ 4096 →
      ∃ t, exec (.drw x y n) s = .next t ∧ t.pc = s.pc + 2 ∧
        t.outputs = s.outputs ++
          [.displayDraw (s.reg x) (s.reg y) ((List.range n).map fun k => s.mem.read (s.i.toNat + k))] ∧
        ((t.reg vF).toNat = 0 ∨ (t.reg vF).toNat = 1) ∧
        (∀ e rest, s.inputs = e :: rest → (t.reg vF).toNat = if e.collision then 1 else 0) ∧
        Unchanged { regs := [vF], outputs := true } s t) ∧
    (0 < n → 4096 < s.i.toNat + n →
      exec (.drw x y n) s =
        .next { s with fault := some ⟨.memOor, s.pc, some (formatXYN 0xD#4 x y (BitVec.ofNat 4 n)), max s.i.toNat 4096⟩ })

/-! ## Control transfer (42_control_flow.md) -/

/-- 1nnn (42_control_flow.md R86). -/
def Obligations.JumpSetsPc : Prop :=
  ∀ (nnn : Addr12) (s : State), ∃ t, exec (.jp nnn) s = .next t ∧
    t.pc.toNat = nnn.toNat ∧ Unchanged {} s t

/-- Bnnn: the register is always `V[0]` and the sum keeps 16 bits (42_control_flow.md R88). -/
def Obligations.IndexedJumpAddsRegisterZero : Prop :=
  ∀ (nnn : Addr12) (s : State), ∃ t, exec (.jpV0 nnn) s = .next t ∧
    t.pc.toNat = nnn.toNat + (s.reg 0#4).toNat ∧ Unchanged {} s t

/-- 2nnn: pushes `PC + 2` and jumps; with `SP = 15` it faults instead (42_control_flow.md section R87; decisions D2,
D5; log 5). -/
def Obligations.CallPushesReturnAddress : Prop :=
  ∀ (nnn : Addr12) (s : State),
    (s.sp.toNat < 15 →
      ∃ t, exec (.call nnn) s = .next t ∧ t.pc.toNat = nnn.toNat ∧ t.sp.toNat = s.sp.toNat + 1 ∧
        (∀ k (h : k < 16), t.stack[k] = if k = s.sp.toNat then s.pc + 2 else s.stack[k]) ∧
        Unchanged { stack := true } s t) ∧
    (s.sp.toNat = 15 →
      exec (.call nnn) s =
        .next { s with fault := some ⟨.stackOverflow, s.pc, some (formatNNN 0x2#4 nnn), 15⟩ })

/-- 00EE: pops into `PC` with nothing added and leaves the entry; with `SP = 0` it faults instead
(42_control_flow.md section R85; decisions D3, D5). -/
def Obligations.ReturnPopsIntoPc : Prop :=
  ∀ s : State,
    (0 < s.sp.toNat →
      ∃ t, exec .ret s = .next t ∧ t.sp.toNat + 1 = s.sp.toNat ∧ t.stack = s.stack ∧
        (∀ k (h : k < 16), k + 1 = s.sp.toNat → t.pc = s.stack[k]) ∧
        Unchanged { stack := true } s t) ∧
    (s.sp.toNat = 0 →
      exec .ret s = .next { s with fault := some ⟨.stackUnderflow, s.pc, some 0x00EE#16, 0⟩ })

/-- A return after a call restores `PC` to the instruction after the call and the depth of the stack
(42_control_flow.md R85, R87; 95_test_vectors.md E7). -/
def Obligations.CallThenReturnComesBack : Prop :=
  ∀ (nnn : Addr12) (s : State), s.sp.toNat < 15 →
    ∃ t u, exec (.call nnn) s = .next t ∧ exec .ret t = .next u ∧
      u.pc = s.pc + 2 ∧ u.sp = s.sp ∧
      (∀ k (h : k < 16), k ≠ s.sp.toNat → u.stack[k] = s.stack[k]) ∧
      Unchanged { stack := true } s u

/-! ## Skips (43_skips.md) -/

/-- 3xnn and 4xnn (43_skips.md R90, R91, R92). -/
def Obligations.ImmediateSkips : Prop :=
  ∀ (x : Reg) (nn : Byte) (s : State),
    (∃ t, exec (.seImm x nn) s = .next t ∧
      t.pc = (if (s.reg x).toNat = nn.toNat then s.pc + 4 else s.pc + 2) ∧ Unchanged {} s t) ∧
    (∃ t, exec (.sneImm x nn) s = .next t ∧
      t.pc = (if (s.reg x).toNat = nn.toNat then s.pc + 2 else s.pc + 4) ∧ Unchanged {} s t)

/-- 5xy0 and 9xy0 (43_skips.md R90, R93, R94). -/
def Obligations.RegisterSkips : Prop :=
  ∀ (x y : Reg) (s : State),
    (∃ t, exec (.seReg x y) s = .next t ∧
      t.pc = (if (s.reg x).toNat = (s.reg y).toNat then s.pc + 4 else s.pc + 2) ∧ Unchanged {} s t) ∧
    (∃ t, exec (.sneReg x y) s = .next t ∧
      t.pc = (if (s.reg x).toNat = (s.reg y).toNat then s.pc + 2 else s.pc + 4) ∧ Unchanged {} s t)

/-- Ex9E and ExA1: the key is the value of `V[x]`; a value above 15 faults (43_skips.md sections R95, R96; decisions
D4, D5). -/
def Obligations.KeySkips : Prop :=
  ∀ (x : Reg) (s : State),
    ((s.reg x).toNat ≤ 15 →
      (∃ t, exec (.skp x) s = .next t ∧
        t.pc = (if s.keys.getLsbD (s.reg x).toNat then s.pc + 4 else s.pc + 2) ∧ Unchanged {} s t) ∧
      (∃ t, exec (.sknp x) s = .next t ∧
        t.pc = (if s.keys.getLsbD (s.reg x).toNat then s.pc + 2 else s.pc + 4) ∧ Unchanged {} s t)) ∧
    (15 < (s.reg x).toNat →
      exec (.skp x) s =
        .next { s with fault := some ⟨.keyIndex, s.pc, some (formatXNN 0xE#4 x 0x9E#8), (s.reg x).toNat⟩ } ∧
      exec (.sknp x) s =
        .next { s with fault := some ⟨.keyIndex, s.pc, some (formatXNN 0xE#4 x 0xA1#8), (s.reg x).toNat⟩ })

/-! ## Loads, arithmetic, logic (44_load_arith.md) -/

/-- 6xnn and 8xy0 (44_load_arith.md R101, R103). -/
def Obligations.RegisterLoads : Prop :=
  ∀ (x y : Reg) (nn : Byte) (s : State),
    (∃ t, exec (.ldImm x nn) s = .next t ∧ t.pc = s.pc + 2 ∧ t.reg x = nn ∧ Unchanged { regs := [x] } s t) ∧
    (∃ t, exec (.ldReg x y) s = .next t ∧ t.pc = s.pc + 2 ∧ t.reg x = s.reg y ∧ Unchanged { regs := [x] } s t)

/-- 7xnn: the sum modulo 256 and no flag (44_load_arith.md R102). -/
def Obligations.AddImmediateWrapsWithoutFlag : Prop :=
  ∀ (x : Reg) (nn : Byte) (s : State), ∃ t, exec (.addImm x nn) s = .next t ∧ t.pc = s.pc + 2 ∧
    (t.reg x).toNat = ((s.reg x).toNat + nn.toNat) % 256 ∧ Unchanged { regs := [x] } s t

/-- 8xy1, 8xy2, 8xy3, bit by bit, `VF` untouched (44_load_arith.md R104, R105, R106). -/
def Obligations.LogicWorksBitwise : Prop :=
  ∀ (x y : Reg) (s : State),
    (∃ t, exec (.or x y) s = .next t ∧ t.pc = s.pc + 2 ∧
      (∀ k, (t.reg x).getLsbD k = ((s.reg x).getLsbD k || (s.reg y).getLsbD k)) ∧ Unchanged { regs := [x] } s t) ∧
    (∃ t, exec (.and x y) s = .next t ∧ t.pc = s.pc + 2 ∧
      (∀ k, (t.reg x).getLsbD k = ((s.reg x).getLsbD k && (s.reg y).getLsbD k)) ∧ Unchanged { regs := [x] } s t) ∧
    (∃ t, exec (.xor x y) s = .next t ∧ t.pc = s.pc + 2 ∧
      (∀ k, (t.reg x).getLsbD k = ((s.reg x).getLsbD k ^^ (s.reg y).getLsbD k)) ∧ Unchanged { regs := [x] } s t)

/-- 8xy4: the sum modulo 256, then the carry, which survives when `x = 15` (44_load_arith.md R107). -/
def Obligations.AddRegistersReportsCarry : Prop :=
  ∀ (x y : Reg) (s : State), ∃ t, exec (.addReg x y) s = .next t ∧ t.pc = s.pc + 2 ∧
    (x ≠ vF → (t.reg x).toNat = ((s.reg x).toNat + (s.reg y).toNat) % 256) ∧
    (t.reg vF).toNat = (if (s.reg x).toNat + (s.reg y).toNat > 255 then 1 else 0) ∧
    Unchanged { regs := [x, vF] } s t

/-- 8xy5 and 8xy7: the difference modulo 256, then the absence of a borrow, which survives when `x = 15`
(44_load_arith.md R108, R110). -/
def Obligations.SubtractionsReportNotBorrow : Prop :=
  ∀ (x y : Reg) (s : State),
    (∃ t, exec (.sub x y) s = .next t ∧ t.pc = s.pc + 2 ∧
      (x ≠ vF → (t.reg x).toNat = ((s.reg x).toNat + 256 - (s.reg y).toNat) % 256) ∧
      (t.reg vF).toNat = (if (s.reg y).toNat > (s.reg x).toNat then 0 else 1) ∧
      Unchanged { regs := [x, vF] } s t) ∧
    (∃ t, exec (.subn x y) s = .next t ∧ t.pc = s.pc + 2 ∧
      (x ≠ vF → (t.reg x).toNat = ((s.reg y).toNat + 256 - (s.reg x).toNat) % 256) ∧
      (t.reg vF).toNat = (if (s.reg x).toNat > (s.reg y).toNat then 0 else 1) ∧
      Unchanged { regs := [x, vF] } s t)

/-- 8xy6 and 8xyE: the bit shifted out, then the shifted value of `V[x]`, which survives when `x = 15`; `y` does not
matter (44_load_arith.md sections R109, R111; the operand latch with `x = 15` is decision D6, log 6). -/
def Obligations.ShiftsKeepTheResultLast : Prop :=
  ∀ (x y : Reg) (s : State),
    (∃ t, exec (.shr x y) s = .next t ∧ t.pc = s.pc + 2 ∧
      (t.reg x).toNat = (s.reg x).toNat / 2 ∧
      (x ≠ vF → (t.reg vF).toNat = (s.reg x).toNat % 2) ∧ Unchanged { regs := [x, vF] } s t) ∧
    (∃ t, exec (.shl x y) s = .next t ∧ t.pc = s.pc + 2 ∧
      (t.reg x).toNat = (s.reg x).toNat * 2 % 256 ∧
      (x ≠ vF → (t.reg vF).toNat = (s.reg x).toNat / 128) ∧ Unchanged { regs := [x, vF] } s t)

/-! ## Index register and memory (45_index_memory.md) -/

/-- Annn and Fx29: `V[x]` is not masked (45_index_memory.md R115, R117). -/
def Obligations.IndexLoads : Prop :=
  ∀ (nnn : Addr12) (x : Reg) (s : State),
    (∃ t, exec (.ldI nnn) s = .next t ∧ t.pc = s.pc + 2 ∧ t.i.toNat = nnn.toNat ∧
      Unchanged { index := true } s t) ∧
    (∃ t, exec (.ldF x) s = .next t ∧ t.pc = s.pc + 2 ∧ t.i.toNat = (s.reg x).toNat * 5 ∧
      Unchanged { index := true } s t)

/-- Fx1E: a 16-bit sum and no flag (45_index_memory.md section R116; the wrap is decision D7). -/
def Obligations.AddToIndexWrapsWithoutFlag : Prop :=
  ∀ (x : Reg) (s : State), ∃ t, exec (.addI x) s = .next t ∧ t.pc = s.pc + 2 ∧
    t.i.toNat = (s.i.toNat + (s.reg x).toNat) % 65536 ∧ Unchanged { index := true } s t

/-- Fx33: hundreds, tens and ones at `I`, `I+1`, `I+2`; past the end of memory MEM_OOR and no byte is written
(45_index_memory.md section R118; decisions D1, D5). -/
def Obligations.DecimalDigitsAreStored : Prop :=
  ∀ (x : Reg) (s : State),
    (s.i.toNat + 2 < 4096 →
      ∃ t, exec (.ldB x) s = .next t ∧ t.pc = s.pc + 2 ∧
        (t.mem.read s.i.toNat).toNat = (s.reg x).toNat / 100 ∧
        (t.mem.read (s.i.toNat + 1)).toNat = (s.reg x).toNat / 10 % 10 ∧
        (t.mem.read (s.i.toNat + 2)).toNat = (s.reg x).toNat % 10 ∧
        Unchanged { memAt := s.i.toNat, memLen := 3 } s t) ∧
    (4096 ≤ s.i.toNat + 2 →
      exec (.ldB x) s =
        .next { s with fault := some ⟨.memOor, s.pc, some (formatXNN 0xF#4 x 0x33#8), max s.i.toNat 4096⟩ })

/-- Fx55: `V[0]` to `V[x]` at `I` upward, and `I` moves past them; past the end of memory MEM_OOR and nothing is
written (45_index_memory.md section R119; decisions D1, D5). -/
def Obligations.StoreBlockWritesRegisters : Prop :=
  ∀ (x : Reg) (s : State),
    (s.i.toNat + x.toNat < 4096 →
      ∃ t, exec (.stRegs x) s = .next t ∧ t.pc = s.pc + 2 ∧ t.i.toNat = s.i.toNat + x.toNat + 1 ∧
        (∀ k : Reg, k.toNat ≤ x.toNat → t.mem.read (s.i.toNat + k.toNat) = s.reg k) ∧
        Unchanged { index := true, memAt := s.i.toNat, memLen := x.toNat + 1 } s t) ∧
    (4096 ≤ s.i.toNat + x.toNat →
      exec (.stRegs x) s =
        .next { s with fault := some ⟨.memOor, s.pc, some (formatXNN 0xF#4 x 0x55#8), max s.i.toNat 4096⟩ })

/-- Fx65: `V[0]` to `V[x]` from `I` upward, and `I` moves past them; past the end of memory MEM_OOR and no register
changes (45_index_memory.md section R120; decisions D1, D5). -/
def Obligations.LoadBlockReadsRegisters : Prop :=
  ∀ (x : Reg) (s : State),
    (s.i.toNat + x.toNat < 4096 →
      ∃ t, exec (.ldRegs x) s = .next t ∧ t.pc = s.pc + 2 ∧ t.i.toNat = s.i.toNat + x.toNat + 1 ∧
        (∀ k : Reg, k.toNat ≤ x.toNat → t.reg k = s.mem.read (s.i.toNat + k.toNat)) ∧
        Unchanged { regs := (List.range (x.toNat + 1)).map (BitVec.ofNat 4), index := true } s t) ∧
    (4096 ≤ s.i.toNat + x.toNat →
      exec (.ldRegs x) s =
        .next { s with fault := some ⟨.memOor, s.pc, some (formatXNN 0xF#4 x 0x65#8), max s.i.toNat 4096⟩ })

/-- The round trip of Fx55 and Fx65: a load from the address stored to, whatever the registers hold by then, gives
the stored registers back, and `I` moves by `x + 1` both times (45_index_memory.md R119, R120;
95_test_vectors.md E5). -/
def Obligations.StoredBlockLoadsBack : Prop :=
  ∀ (x : Reg) (s : State), s.i.toNat + x.toNat < 4096 →
    ∃ t, exec (.stRegs x) s = .next t ∧ t.i.toNat = s.i.toNat + x.toNat + 1 ∧
      ∀ v : Vector Byte 16,
        ∃ u, exec (.ldRegs x) { t with v := v, i := s.i } = .next u ∧ u.i = t.i ∧
          ∀ k : Reg, k.toNat ≤ x.toNat → u.reg k = s.reg k

/-! ## Random, timers, key wait (46_random_timers_keywait.md) -/

/-- Cxnn: the drawn byte under the mask, whatever byte is drawn (46_random_timers_keywait.md section R125). That the
byte is that of the first record of `inputs` is the model's choice (log 2; its form is D15). -/
def Obligations.RandomByteIsMasked : Prop :=
  ∀ (x : Reg) (nn : Byte) (s : State), ∃ t, exec (.rnd x nn) s = .next t ∧ t.pc = s.pc + 2 ∧
    (∀ k, (t.reg x).getLsbD k = (nn.getLsbD k && s.rand.getLsbD k)) ∧
    (∀ e rest, s.inputs = e :: rest → t.reg x = nn &&& e.rand) ∧
    Unchanged { regs := [x] } s t

/-- Fx07 and Fx15, each with what the countdown of its own cycle leaves (46_random_timers_keywait.md R126, R128). -/
def Obligations.DelayTimerTransfers : Prop :=
  ∀ (x : Reg) (s : State), s.fault = none →
    (∃ t, exec (.ldVxDt x) s = .next t ∧ t.pc = s.pc + 2 ∧ t.reg x = s.dt ∧ Unchanged { regs := [x] } s t ∧
      t.finishCycle.dt.toNat = (t.reg x).toNat - 1) ∧
    (∃ t, exec (.ldDtVx x) s = .next t ∧ t.pc = s.pc + 2 ∧ t.dt = s.reg x ∧ Unchanged { delay := true } s t ∧
      t.finishCycle.dt.toNat = (s.reg x).toNat - 1)

/-- Fx18, with what the countdown of its own cycle leaves: set to 1, the timer reaches 0 and the sound event is
emitted in that cycle; set to 0, none is (46_random_timers_keywait.md section R129; the event is decision D13). -/
def Obligations.SoundTimerIsSetAndCounted : Prop :=
  ∀ (x : Reg) (s : State), s.fault = none →
    ∃ t, exec (.ldStVx x) s = .next t ∧ t.pc = s.pc + 2 ∧ t.st = s.reg x ∧ Unchanged { sound := true } s t ∧
      t.finishCycle.st.toNat = (s.reg x).toNat - 1 ∧
      t.finishCycle.outputs = s.outputs ++ (if (s.reg x).toNat = 1 then [.soundEvent] else [])

/-- Fx0A: with no key pressed nothing changes, `PC` included; with keys pressed the lowest goes to `V[x]`
(46_random_timers_keywait.md R127). -/
def Obligations.KeyWaitTakesTheLowestKey : Prop :=
  ∀ (x : Reg) (s : State),
    (s.keys = 0 → exec (.ldVxK x) s = .next s) ∧
    (∀ k, k < 16 → s.keys.getLsbD k = true → (∀ j, j < k → s.keys.getLsbD j = false) →
      ∃ t, exec (.ldVxK x) s = .next t ∧ t.pc = s.pc + 2 ∧ (t.reg x).toNat = k ∧ Unchanged { regs := [x] } s t)

/-- The busy poll of Fx0A: while no key is pressed, `n` cycles leave `PC` and every register where they were and
count the timers down; the cycle in which a key is pressed stores the lowest key and moves on
(46_random_timers_keywait.md R127, 40_cycle.md R69; 95_test_vectors.md E9; the inputs are log 2). -/
def Obligations.KeyWaitRepeatsUntilAKeyIsPressed : Prop :=
  ∀ (n : Nat) (x : Reg) (s : State) (idle rest : List EnvInputs) (e : EnvInputs) (k : Nat),
    s.fault = none → s.pc.toNat ≤ 4094 → decodeWord s.wordAtPc = .ok (.ldVxK x) →
    s.inputs = idle ++ e :: rest → idle.length = n → (∀ q ∈ idle, q.keys = 0) →
    k < 16 → e.keys.getLsbD k = true → (∀ j, j < k → e.keys.getLsbD j = false) →
    (∃ t, Host.Core.run Sys2Proof.core n s = .next t ∧ t.pc = s.pc ∧ t.v = s.v ∧
      t.dt.toNat = s.dt.toNat - n ∧ t.st.toNat = s.st.toNat - n) ∧
    (∃ u, Host.Core.run Sys2Proof.core (n + 1) s = .next u ∧ u.pc = s.pc + 2 ∧ (u.reg x).toNat = k ∧
      (∀ r, r ≠ x → u.reg r = s.reg r) ∧ u.fault = none)

/-! ## Memory (20_memory.md) -/

/-- Memories in canonical form that hold the same 4096 bytes are the same data (the form is the model's own,
log 1). -/
def Obligations.CanonicalMemoriesAreEqualByBytes : Prop :=
  ∀ m m' : Memory, m.wf → m'.wf → (∀ a, a < 4096 → m.read a = m'.read a) → m = m'

/-- A store is seen by the very next fetch: bytes that Fx55 stores at the next `PC` are the next word fetched, the
lower address its high byte (20_memory.md sections 3, 6; the coherence rule is derived there). -/
def Obligations.NextFetchSeesTheStore : Prop :=
  ∀ (x k : Reg) (s : State), s.i.toNat + x.toNat < 4096 → k.toNat + 1 ≤ x.toNat →
    s.i.toNat + k.toNat = s.pc.toNat + 2 →
    ∃ t, exec (.stRegs x) s = .next t ∧ t.fetch = .ok (s.reg k ++ s.reg (k + 1))

/-! ## Reset and load (70_reset_and_hazards.md) -/

/-- Reset leaves every piece of the spec's state at its reset value, with any font (70_reset_and_hazards.md
section 1, 10_state.md section 9; `SP`, `DT`, `ST` are decision D10, a reset at any time D21), and with the default
font it is the state after reset (log 1); the model's own `inputs`, `cycles` and `outputs` stay (log 2, log 3). -/
def Obligations.ResetLeavesTheListedValues : Prop :=
  ∀ (font : Vector Byte 80) (s : State),
    (∀ r, (s.resetCore font).reg r = 0) ∧ (s.resetCore font).i = 0 ∧ (s.resetCore font).pc = 0x200 ∧
    (∀ k (h : k < 16), (s.resetCore font).stack[k] = 0) ∧ (s.resetCore font).sp = 0 ∧
    (s.resetCore font).dt = 0 ∧ (s.resetCore font).st = 0 ∧ (s.resetCore font).fault = none ∧
    (∀ a (h : a < 80), (s.resetCore font).mem.read a = font[a]) ∧
    (∀ a, 80 ≤ a → (s.resetCore font).mem.read a = 0) ∧
    (s.resetCore font).outputs = s.outputs ∧
    (font.toList = Config.defaultFont → State.reset.resetCore font = State.reset)

/-- The effect of a program load: at most 3584 bytes, copied from 0x200, the rest dropped, `PC` at 0x200 and nothing
else changed (70_reset_and_hazards.md section R167). Said of every state, which is the model's choice (log 8): the
host loads only directly after a reset (decision D21; `LaunchStateContents` states it). -/
def Obligations.LoadCopiesTheImage : Prop :=
  ∀ (image : List Byte) (s : State),
    (s.load image).pc.toNat = 0x200 ∧
    (∀ k (h : k < image.length), k < 3584 → (s.load image).mem.read (0x200 + k) = image[k]) ∧
    Unchanged { memAt := 0x200, memLen := min image.length 3584 } s (s.load image)

/-- The launch state is determined by the font and the image: memory is the font, 432 zeros, the image cut at 3584
bytes and zeros; all else is as reset leaves it. The host's reset and then load give exactly this core; a load is
refused everywhere but between a reset and the first load or cycle after it (70_reset_and_hazards.md sections 2, 5;
decisions D10, D21; that the order of moves is kept in a session is log 8). -/
def Obligations.LaunchStateContents : Prop :=
  ∀ (font : Vector Byte 80) (image : List Byte) (s : State),
    (∀ a (h : a < 80), (s.launch font image).mem.read a = font[a]) ∧
    (∀ a, 80 ≤ a → a < 0x200 → (s.launch font image).mem.read a = 0) ∧
    (∀ k (h : k < image.length), k < 3584 → (s.launch font image).mem.read (0x200 + k) = image[k]) ∧
    (∀ a, 0x200 + min image.length 3584 ≤ a → a < 4096 → (s.launch font image).mem.read a = 0) ∧
    (∀ r, (s.launch font image).reg r = 0) ∧ (s.launch font image).i = 0 ∧
    (s.launch font image).pc.toNat = 0x200 ∧ (s.launch font image).sp = 0 ∧
    (∀ k (h : k < 16), (s.launch font image).stack[k] = 0) ∧
    (s.launch font image).dt = 0 ∧ (s.launch font image).st = 0 ∧ (s.launch font image).fault = none ∧
    (∀ h : Session, h.phase ≠ .stopped →
      h.moves [.reset font, .load image] = .ok ⟨h.core.launch font image, .started, h.keys⟩) ∧
    (∀ h : Session, h.phase ≠ .fresh → ∃ e, h.move (.load image) = .error e) ∧
    (∀ (h h' : Session) (m : HostMove), h.move m = .ok h' → h'.phase = .fresh →
      (∃ font', m = .reset font') ∨
      (h.phase = .fresh ∧ h'.core = h.core ∧ (m = .present ∨ ∃ key pressed, m = .setPressed key pressed)))

/-! ## The end of a run (40_cycle.md) -/

/-- A jump to itself leaves every register and byte unchanged for any number of cycles and only counts the timers
down (40_cycle.md section 8 (derived there); decision D20). -/
def Obligations.SelfJumpOnlyCountsTheTimers : Prop :=
  ∀ (k : Nat) (s : State), s.fault = none → s.atSelfJump →
    ∃ t, Host.Core.run Sys2Proof.core k s = .next t ∧
      t.v = s.v ∧ t.i = s.i ∧ t.pc = s.pc ∧ t.stack = s.stack ∧ t.sp = s.sp ∧ t.mem = s.mem ∧ t.fault = none ∧
      t.dt.toNat = s.dt.toNat - k ∧ t.st.toNat = s.st.toNat - k
end

