-- ==== Sys2Proof/Laws/Decode.lean ====
section
/-! SUPPORT. The fields of a word put together from fields, and a word put together again from its fields
(30_encoding.md R51, R52). -/

namespace Sys2Proof

/-! ## Fields and formats as numbers -/

theorem toNat_append_eq {m n : Nat} (a : BitVec m) (b : BitVec n) : (a ++ b).toNat = a.toNat * 2 ^ n + b.toNat := by
  rw [BitVec.toNat_append, ← Nat.shiftLeft_add_eq_or_of_lt b.isLt, Nat.shiftLeft_eq]

theorem Field.toNat_op (w : Word) : (Field.op w).toNat = w.toNat / 4096 := by
  have := w.isLt
  simp only [Field.op, BitVec.extractLsb'_toNat, Nat.shiftRight_eq_div_pow]; omega

theorem Field.toNat_x (w : Word) : (Field.x w).toNat = w.toNat / 256 % 16 := by
  simp only [Field.x, BitVec.extractLsb'_toNat, Nat.shiftRight_eq_div_pow]

theorem Field.toNat_y (w : Word) : (Field.y w).toNat = w.toNat / 16 % 16 := by
  simp only [Field.y, BitVec.extractLsb'_toNat, Nat.shiftRight_eq_div_pow]

theorem Field.toNat_n (w : Word) : (Field.n w).toNat = w.toNat % 16 := by
  simp only [Field.n, BitVec.extractLsb'_toNat, Nat.shiftRight_eq_div_pow]; omega

theorem Field.toNat_nn (w : Word) : (Field.nn w).toNat = w.toNat % 256 := by
  simp only [Field.nn, BitVec.extractLsb'_toNat, Nat.shiftRight_eq_div_pow]; omega

theorem Field.toNat_nnn (w : Word) : (Field.nnn w).toNat = w.toNat % 4096 := by
  simp only [Field.nnn, BitVec.extractLsb'_toNat, Nat.shiftRight_eq_div_pow]; omega

theorem toNat_formatNNN (a : Nibble) (r : Addr12) : (formatNNN a r).toNat = a.toNat * 4096 + r.toNat :=
  toNat_append_eq a r

theorem toNat_formatXNN (a : Nibble) (x : Reg) (b : Byte) :
    (formatXNN a x b).toNat = a.toNat * 4096 + x.toNat * 256 + b.toNat := by
  have h : (formatXNN a x b).toNat = (a ++ x).toNat * 2 ^ 8 + b.toNat := toNat_append_eq (a ++ x) b
  rw [h, toNat_append_eq]; omega

theorem toNat_formatXYN (a : Nibble) (x y : Reg) (n : Nibble) :
    (formatXYN a x y n).toNat = a.toNat * 4096 + x.toNat * 256 + y.toNat * 16 + n.toNat := by
  have h : (formatXYN a x y n).toNat = (a ++ x ++ y).toNat * 2 ^ 4 + n.toNat := toNat_append_eq (a ++ x ++ y) n
  rw [h, toNat_append_eq, toNat_append_eq]; omega

/-! ## The fields of a format -/

@[simp] theorem Field.op_formatNNN (a : Nibble) (r : Addr12) : Field.op (formatNNN a r) = a := by
  apply BitVec.eq_of_toNat_eq; rw [Field.toNat_op, toNat_formatNNN]; omega

@[simp] theorem Field.nnn_formatNNN (a : Nibble) (r : Addr12) : Field.nnn (formatNNN a r) = r := by
  apply BitVec.eq_of_toNat_eq; rw [Field.toNat_nnn, toNat_formatNNN]; omega

@[simp] theorem Field.op_formatXNN (a : Nibble) (x : Reg) (b : Byte) : Field.op (formatXNN a x b) = a := by
  apply BitVec.eq_of_toNat_eq; rw [Field.toNat_op, toNat_formatXNN]; omega

@[simp] theorem Field.x_formatXNN (a : Nibble) (x : Reg) (b : Byte) : Field.x (formatXNN a x b) = x := by
  apply BitVec.eq_of_toNat_eq; rw [Field.toNat_x, toNat_formatXNN]; omega

@[simp] theorem Field.nn_formatXNN (a : Nibble) (x : Reg) (b : Byte) : Field.nn (formatXNN a x b) = b := by
  apply BitVec.eq_of_toNat_eq; rw [Field.toNat_nn, toNat_formatXNN]; omega

@[simp] theorem Field.op_formatXYN (a : Nibble) (x y : Reg) (n : Nibble) : Field.op (formatXYN a x y n) = a := by
  apply BitVec.eq_of_toNat_eq; rw [Field.toNat_op, toNat_formatXYN]; omega

@[simp] theorem Field.x_formatXYN (a : Nibble) (x y : Reg) (n : Nibble) : Field.x (formatXYN a x y n) = x := by
  apply BitVec.eq_of_toNat_eq; rw [Field.toNat_x, toNat_formatXYN]; omega

@[simp] theorem Field.y_formatXYN (a : Nibble) (x y : Reg) (n : Nibble) : Field.y (formatXYN a x y n) = y := by
  apply BitVec.eq_of_toNat_eq; rw [Field.toNat_y, toNat_formatXYN]; omega

@[simp] theorem Field.n_formatXYN (a : Nibble) (x y : Reg) (n : Nibble) : Field.n (formatXYN a x y n) = n := by
  apply BitVec.eq_of_toNat_eq; rw [Field.toNat_n, toNat_formatXYN]; omega

/-! ## A word from its fields -/

theorem formatNNN_fields (w : Word) : formatNNN (Field.op w) (Field.nnn w) = w := by
  apply BitVec.eq_of_toNat_eq; rw [toNat_formatNNN, Field.toNat_op, Field.toNat_nnn]; omega

theorem formatXNN_fields (w : Word) : formatXNN (Field.op w) (Field.x w) (Field.nn w) = w := by
  apply BitVec.eq_of_toNat_eq; rw [toNat_formatXNN, Field.toNat_op, Field.toNat_x, Field.toNat_nn]; omega

theorem formatXYN_fields (w : Word) : formatXYN (Field.op w) (Field.x w) (Field.y w) (Field.n w) = w := by
  apply BitVec.eq_of_toNat_eq
  rw [toNat_formatXYN, Field.toNat_op, Field.toNat_x, Field.toNat_y, Field.toNat_n]; omega

/-- A word read from its two bytes in memory is that word (20_memory.md R37). -/
@[simp] theorem wordOfBytes_bytesOfWord (w : Word) :
    wordOfBytes (w.extractLsb' 8 8) (w.extractLsb' 0 8) = w := by
  have h : (wordOfBytes (w.extractLsb' 8 8) (w.extractLsb' 0 8)).toNat =
      (w.extractLsb' 8 8).toNat * 2 ^ 8 + (w.extractLsb' 0 8).toNat := toNat_append_eq _ _
  apply BitVec.eq_of_toNat_eq
  rw [h]
  simp only [BitVec.extractLsb'_toNat, Nat.shiftRight_eq_div_pow]
  have := w.isLt
  omega

/-- The decoder on the bytes of a word is the decoder on the word. -/
theorem decodeBytes_bytesOfWord (w : Word) (rest : List Byte) :
    decodeBytes (bytesOfWord w ++ rest) = (decodeWord w).map fun i => (i, rest) := by
  simp [bytesOfWord, decodeBytes]

end Sys2Proof
end

