-- ==== Sys2Proof/Laws/State.lean ====
section
/-! SUPPORT. The fields of the state after each named update: one lemma per field per update, true by rfl. -/

namespace Sys2Proof.Machine

variable (s : State)

/-! ## `setReg` -/

@[simp] theorem State.setReg_v (x : Reg) (b : Byte) : (s.setReg x b).v = s.v.set x.toNat b x.isLt := rfl
@[simp] theorem State.setReg_i (x : Reg) (b : Byte) : (s.setReg x b).i = s.i := rfl
@[simp] theorem State.setReg_pc (x : Reg) (b : Byte) : (s.setReg x b).pc = s.pc := rfl
@[simp] theorem State.setReg_stack (x : Reg) (b : Byte) : (s.setReg x b).stack = s.stack := rfl
@[simp] theorem State.setReg_sp (x : Reg) (b : Byte) : (s.setReg x b).sp = s.sp := rfl
@[simp] theorem State.setReg_dt (x : Reg) (b : Byte) : (s.setReg x b).dt = s.dt := rfl
@[simp] theorem State.setReg_st (x : Reg) (b : Byte) : (s.setReg x b).st = s.st := rfl
@[simp] theorem State.setReg_mem (x : Reg) (b : Byte) : (s.setReg x b).mem = s.mem := rfl
@[simp] theorem State.setReg_fault (x : Reg) (b : Byte) : (s.setReg x b).fault = s.fault := rfl
@[simp] theorem State.setReg_inputs (x : Reg) (b : Byte) : (s.setReg x b).inputs = s.inputs := rfl
@[simp] theorem State.setReg_cycles (x : Reg) (b : Byte) : (s.setReg x b).cycles = s.cycles := rfl
@[simp] theorem State.setReg_outputs (x : Reg) (b : Byte) : (s.setReg x b).outputs = s.outputs := rfl

/-! ## `loadRegs` -/

@[simp] theorem State.loadRegs_v (bytes : List Byte) : (s.loadRegs bytes).v = loadRegsFrom 0 bytes s.v := rfl
@[simp] theorem State.loadRegs_i (bytes : List Byte) : (s.loadRegs bytes).i = s.i := rfl
@[simp] theorem State.loadRegs_pc (bytes : List Byte) : (s.loadRegs bytes).pc = s.pc := rfl
@[simp] theorem State.loadRegs_stack (bytes : List Byte) : (s.loadRegs bytes).stack = s.stack := rfl
@[simp] theorem State.loadRegs_sp (bytes : List Byte) : (s.loadRegs bytes).sp = s.sp := rfl
@[simp] theorem State.loadRegs_dt (bytes : List Byte) : (s.loadRegs bytes).dt = s.dt := rfl
@[simp] theorem State.loadRegs_st (bytes : List Byte) : (s.loadRegs bytes).st = s.st := rfl
@[simp] theorem State.loadRegs_mem (bytes : List Byte) : (s.loadRegs bytes).mem = s.mem := rfl
@[simp] theorem State.loadRegs_fault (bytes : List Byte) : (s.loadRegs bytes).fault = s.fault := rfl
@[simp] theorem State.loadRegs_inputs (bytes : List Byte) : (s.loadRegs bytes).inputs = s.inputs := rfl
@[simp] theorem State.loadRegs_cycles (bytes : List Byte) : (s.loadRegs bytes).cycles = s.cycles := rfl
@[simp] theorem State.loadRegs_outputs (bytes : List Byte) : (s.loadRegs bytes).outputs = s.outputs := rfl

/-! ## `setI` -/

@[simp] theorem State.setI_v (a : Word) : (s.setI a).v = s.v := rfl
@[simp] theorem State.setI_i (a : Word) : (s.setI a).i = a := rfl
@[simp] theorem State.setI_pc (a : Word) : (s.setI a).pc = s.pc := rfl
@[simp] theorem State.setI_stack (a : Word) : (s.setI a).stack = s.stack := rfl
@[simp] theorem State.setI_sp (a : Word) : (s.setI a).sp = s.sp := rfl
@[simp] theorem State.setI_dt (a : Word) : (s.setI a).dt = s.dt := rfl
@[simp] theorem State.setI_st (a : Word) : (s.setI a).st = s.st := rfl
@[simp] theorem State.setI_mem (a : Word) : (s.setI a).mem = s.mem := rfl
@[simp] theorem State.setI_fault (a : Word) : (s.setI a).fault = s.fault := rfl
@[simp] theorem State.setI_inputs (a : Word) : (s.setI a).inputs = s.inputs := rfl
@[simp] theorem State.setI_cycles (a : Word) : (s.setI a).cycles = s.cycles := rfl
@[simp] theorem State.setI_outputs (a : Word) : (s.setI a).outputs = s.outputs := rfl

/-! ## `setPc` -/

@[simp] theorem State.setPc_v (a : Word) : (s.setPc a).v = s.v := rfl
@[simp] theorem State.setPc_i (a : Word) : (s.setPc a).i = s.i := rfl
@[simp] theorem State.setPc_pc (a : Word) : (s.setPc a).pc = a := rfl
@[simp] theorem State.setPc_stack (a : Word) : (s.setPc a).stack = s.stack := rfl
@[simp] theorem State.setPc_sp (a : Word) : (s.setPc a).sp = s.sp := rfl
@[simp] theorem State.setPc_dt (a : Word) : (s.setPc a).dt = s.dt := rfl
@[simp] theorem State.setPc_st (a : Word) : (s.setPc a).st = s.st := rfl
@[simp] theorem State.setPc_mem (a : Word) : (s.setPc a).mem = s.mem := rfl
@[simp] theorem State.setPc_fault (a : Word) : (s.setPc a).fault = s.fault := rfl
@[simp] theorem State.setPc_inputs (a : Word) : (s.setPc a).inputs = s.inputs := rfl
@[simp] theorem State.setPc_cycles (a : Word) : (s.setPc a).cycles = s.cycles := rfl
@[simp] theorem State.setPc_outputs (a : Word) : (s.setPc a).outputs = s.outputs := rfl

/-! ## `advance` -/

@[simp] theorem State.advance_v : (s.advance).v = s.v := rfl
@[simp] theorem State.advance_i : (s.advance).i = s.i := rfl
@[simp] theorem State.advance_pc : (s.advance).pc = s.pc + 2 := rfl
@[simp] theorem State.advance_stack : (s.advance).stack = s.stack := rfl
@[simp] theorem State.advance_sp : (s.advance).sp = s.sp := rfl
@[simp] theorem State.advance_dt : (s.advance).dt = s.dt := rfl
@[simp] theorem State.advance_st : (s.advance).st = s.st := rfl
@[simp] theorem State.advance_mem : (s.advance).mem = s.mem := rfl
@[simp] theorem State.advance_fault : (s.advance).fault = s.fault := rfl
@[simp] theorem State.advance_inputs : (s.advance).inputs = s.inputs := rfl
@[simp] theorem State.advance_cycles : (s.advance).cycles = s.cycles := rfl
@[simp] theorem State.advance_outputs : (s.advance).outputs = s.outputs := rfl

/-! ## `skipIf` -/

@[simp] theorem State.skipIf_v (c : Bool) : (s.skipIf c).v = s.v := rfl
@[simp] theorem State.skipIf_i (c : Bool) : (s.skipIf c).i = s.i := rfl
@[simp] theorem State.skipIf_pc (c : Bool) : (s.skipIf c).pc = if c then s.pc + 4 else s.pc + 2 := rfl
@[simp] theorem State.skipIf_stack (c : Bool) : (s.skipIf c).stack = s.stack := rfl
@[simp] theorem State.skipIf_sp (c : Bool) : (s.skipIf c).sp = s.sp := rfl
@[simp] theorem State.skipIf_dt (c : Bool) : (s.skipIf c).dt = s.dt := rfl
@[simp] theorem State.skipIf_st (c : Bool) : (s.skipIf c).st = s.st := rfl
@[simp] theorem State.skipIf_mem (c : Bool) : (s.skipIf c).mem = s.mem := rfl
@[simp] theorem State.skipIf_fault (c : Bool) : (s.skipIf c).fault = s.fault := rfl
@[simp] theorem State.skipIf_inputs (c : Bool) : (s.skipIf c).inputs = s.inputs := rfl
@[simp] theorem State.skipIf_cycles (c : Bool) : (s.skipIf c).cycles = s.cycles := rfl
@[simp] theorem State.skipIf_outputs (c : Bool) : (s.skipIf c).outputs = s.outputs := rfl

/-! ## `setDt` -/

@[simp] theorem State.setDt_v (b : Byte) : (s.setDt b).v = s.v := rfl
@[simp] theorem State.setDt_i (b : Byte) : (s.setDt b).i = s.i := rfl
@[simp] theorem State.setDt_pc (b : Byte) : (s.setDt b).pc = s.pc := rfl
@[simp] theorem State.setDt_stack (b : Byte) : (s.setDt b).stack = s.stack := rfl
@[simp] theorem State.setDt_sp (b : Byte) : (s.setDt b).sp = s.sp := rfl
@[simp] theorem State.setDt_dt (b : Byte) : (s.setDt b).dt = b := rfl
@[simp] theorem State.setDt_st (b : Byte) : (s.setDt b).st = s.st := rfl
@[simp] theorem State.setDt_mem (b : Byte) : (s.setDt b).mem = s.mem := rfl
@[simp] theorem State.setDt_fault (b : Byte) : (s.setDt b).fault = s.fault := rfl
@[simp] theorem State.setDt_inputs (b : Byte) : (s.setDt b).inputs = s.inputs := rfl
@[simp] theorem State.setDt_cycles (b : Byte) : (s.setDt b).cycles = s.cycles := rfl
@[simp] theorem State.setDt_outputs (b : Byte) : (s.setDt b).outputs = s.outputs := rfl

/-! ## `setSt` -/

@[simp] theorem State.setSt_v (b : Byte) : (s.setSt b).v = s.v := rfl
@[simp] theorem State.setSt_i (b : Byte) : (s.setSt b).i = s.i := rfl
@[simp] theorem State.setSt_pc (b : Byte) : (s.setSt b).pc = s.pc := rfl
@[simp] theorem State.setSt_stack (b : Byte) : (s.setSt b).stack = s.stack := rfl
@[simp] theorem State.setSt_sp (b : Byte) : (s.setSt b).sp = s.sp := rfl
@[simp] theorem State.setSt_dt (b : Byte) : (s.setSt b).dt = s.dt := rfl
@[simp] theorem State.setSt_st (b : Byte) : (s.setSt b).st = b := rfl
@[simp] theorem State.setSt_mem (b : Byte) : (s.setSt b).mem = s.mem := rfl
@[simp] theorem State.setSt_fault (b : Byte) : (s.setSt b).fault = s.fault := rfl
@[simp] theorem State.setSt_inputs (b : Byte) : (s.setSt b).inputs = s.inputs := rfl
@[simp] theorem State.setSt_cycles (b : Byte) : (s.setSt b).cycles = s.cycles := rfl
@[simp] theorem State.setSt_outputs (b : Byte) : (s.setSt b).outputs = s.outputs := rfl

/-! ## `emit` -/

@[simp] theorem State.emit_v (e : Event) : (s.emit e).v = s.v := rfl
@[simp] theorem State.emit_i (e : Event) : (s.emit e).i = s.i := rfl
@[simp] theorem State.emit_pc (e : Event) : (s.emit e).pc = s.pc := rfl
@[simp] theorem State.emit_stack (e : Event) : (s.emit e).stack = s.stack := rfl
@[simp] theorem State.emit_sp (e : Event) : (s.emit e).sp = s.sp := rfl
@[simp] theorem State.emit_dt (e : Event) : (s.emit e).dt = s.dt := rfl
@[simp] theorem State.emit_st (e : Event) : (s.emit e).st = s.st := rfl
@[simp] theorem State.emit_mem (e : Event) : (s.emit e).mem = s.mem := rfl
@[simp] theorem State.emit_fault (e : Event) : (s.emit e).fault = s.fault := rfl
@[simp] theorem State.emit_inputs (e : Event) : (s.emit e).inputs = s.inputs := rfl
@[simp] theorem State.emit_cycles (e : Event) : (s.emit e).cycles = s.cycles := rfl
@[simp] theorem State.emit_outputs (e : Event) : (s.emit e).outputs = s.outputs ++ [e] := rfl

/-! ## `nextInputs` -/

@[simp] theorem State.nextInputs_v : (s.nextInputs).v = s.v := rfl
@[simp] theorem State.nextInputs_i : (s.nextInputs).i = s.i := rfl
@[simp] theorem State.nextInputs_pc : (s.nextInputs).pc = s.pc := rfl
@[simp] theorem State.nextInputs_stack : (s.nextInputs).stack = s.stack := rfl
@[simp] theorem State.nextInputs_sp : (s.nextInputs).sp = s.sp := rfl
@[simp] theorem State.nextInputs_dt : (s.nextInputs).dt = s.dt := rfl
@[simp] theorem State.nextInputs_st : (s.nextInputs).st = s.st := rfl
@[simp] theorem State.nextInputs_mem : (s.nextInputs).mem = s.mem := rfl
@[simp] theorem State.nextInputs_fault : (s.nextInputs).fault = s.fault := rfl
@[simp] theorem State.nextInputs_inputs : (s.nextInputs).inputs = s.inputs.tail := rfl
@[simp] theorem State.nextInputs_cycles : (s.nextInputs).cycles = s.cycles + 1 := rfl
@[simp] theorem State.nextInputs_outputs : (s.nextInputs).outputs = s.outputs := rfl

/-! ## `takeFault` -/

@[simp] theorem State.takeFault_v (e : Violation) (w : Option Word) : (s.takeFault e w).v = s.v := rfl
@[simp] theorem State.takeFault_i (e : Violation) (w : Option Word) : (s.takeFault e w).i = s.i := rfl
@[simp] theorem State.takeFault_pc (e : Violation) (w : Option Word) : (s.takeFault e w).pc = s.pc := rfl
@[simp] theorem State.takeFault_stack (e : Violation) (w : Option Word) : (s.takeFault e w).stack = s.stack := rfl
@[simp] theorem State.takeFault_sp (e : Violation) (w : Option Word) : (s.takeFault e w).sp = s.sp := rfl
@[simp] theorem State.takeFault_dt (e : Violation) (w : Option Word) : (s.takeFault e w).dt = s.dt := rfl
@[simp] theorem State.takeFault_st (e : Violation) (w : Option Word) : (s.takeFault e w).st = s.st := rfl
@[simp] theorem State.takeFault_mem (e : Violation) (w : Option Word) : (s.takeFault e w).mem = s.mem := rfl
@[simp] theorem State.takeFault_fault (e : Violation) (w : Option Word) : (s.takeFault e w).fault = some ⟨e.kind, s.pc, w, e.info⟩ := rfl
@[simp] theorem State.takeFault_inputs (e : Violation) (w : Option Word) : (s.takeFault e w).inputs = s.inputs := rfl
@[simp] theorem State.takeFault_cycles (e : Violation) (w : Option Word) : (s.takeFault e w).cycles = s.cycles := rfl
@[simp] theorem State.takeFault_outputs (e : Violation) (w : Option Word) : (s.takeFault e w).outputs = s.outputs := rfl

/-! ## `resultThenFlag` -/

@[simp] theorem State.resultThenFlag_v (x : Reg) (b f : Byte) : (s.resultThenFlag x b f).v = ((s.setReg x b).setReg vF f).v := rfl
@[simp] theorem State.resultThenFlag_i (x : Reg) (b f : Byte) : (s.resultThenFlag x b f).i = s.i := rfl
@[simp] theorem State.resultThenFlag_pc (x : Reg) (b f : Byte) : (s.resultThenFlag x b f).pc = s.pc := rfl
@[simp] theorem State.resultThenFlag_stack (x : Reg) (b f : Byte) : (s.resultThenFlag x b f).stack = s.stack := rfl
@[simp] theorem State.resultThenFlag_sp (x : Reg) (b f : Byte) : (s.resultThenFlag x b f).sp = s.sp := rfl
@[simp] theorem State.resultThenFlag_dt (x : Reg) (b f : Byte) : (s.resultThenFlag x b f).dt = s.dt := rfl
@[simp] theorem State.resultThenFlag_st (x : Reg) (b f : Byte) : (s.resultThenFlag x b f).st = s.st := rfl
@[simp] theorem State.resultThenFlag_mem (x : Reg) (b f : Byte) : (s.resultThenFlag x b f).mem = s.mem := rfl
@[simp] theorem State.resultThenFlag_fault (x : Reg) (b f : Byte) : (s.resultThenFlag x b f).fault = s.fault := rfl
@[simp] theorem State.resultThenFlag_inputs (x : Reg) (b f : Byte) : (s.resultThenFlag x b f).inputs = s.inputs := rfl
@[simp] theorem State.resultThenFlag_cycles (x : Reg) (b f : Byte) : (s.resultThenFlag x b f).cycles = s.cycles := rfl
@[simp] theorem State.resultThenFlag_outputs (x : Reg) (b f : Byte) : (s.resultThenFlag x b f).outputs = s.outputs := rfl

/-! ## `flagThenResult` -/

@[simp] theorem State.flagThenResult_v (x : Reg) (f b : Byte) : (s.flagThenResult x f b).v = ((s.setReg vF f).setReg x b).v := rfl
@[simp] theorem State.flagThenResult_i (x : Reg) (f b : Byte) : (s.flagThenResult x f b).i = s.i := rfl
@[simp] theorem State.flagThenResult_pc (x : Reg) (f b : Byte) : (s.flagThenResult x f b).pc = s.pc := rfl
@[simp] theorem State.flagThenResult_stack (x : Reg) (f b : Byte) : (s.flagThenResult x f b).stack = s.stack := rfl
@[simp] theorem State.flagThenResult_sp (x : Reg) (f b : Byte) : (s.flagThenResult x f b).sp = s.sp := rfl
@[simp] theorem State.flagThenResult_dt (x : Reg) (f b : Byte) : (s.flagThenResult x f b).dt = s.dt := rfl
@[simp] theorem State.flagThenResult_st (x : Reg) (f b : Byte) : (s.flagThenResult x f b).st = s.st := rfl
@[simp] theorem State.flagThenResult_mem (x : Reg) (f b : Byte) : (s.flagThenResult x f b).mem = s.mem := rfl
@[simp] theorem State.flagThenResult_fault (x : Reg) (f b : Byte) : (s.flagThenResult x f b).fault = s.fault := rfl
@[simp] theorem State.flagThenResult_inputs (x : Reg) (f b : Byte) : (s.flagThenResult x f b).inputs = s.inputs := rfl
@[simp] theorem State.flagThenResult_cycles (x : Reg) (f b : Byte) : (s.flagThenResult x f b).cycles = s.cycles := rfl
@[simp] theorem State.flagThenResult_outputs (x : Reg) (f b : Byte) : (s.flagThenResult x f b).outputs = s.outputs := rfl

/-! ## `setCollisionFlag` -/

@[simp] theorem State.setCollisionFlag_v (c : Bool) : (s.setCollisionFlag c).v = (s.setReg vF (flagByte c)).v := rfl
@[simp] theorem State.setCollisionFlag_i (c : Bool) : (s.setCollisionFlag c).i = s.i := rfl
@[simp] theorem State.setCollisionFlag_pc (c : Bool) : (s.setCollisionFlag c).pc = s.pc := rfl
@[simp] theorem State.setCollisionFlag_stack (c : Bool) : (s.setCollisionFlag c).stack = s.stack := rfl
@[simp] theorem State.setCollisionFlag_sp (c : Bool) : (s.setCollisionFlag c).sp = s.sp := rfl
@[simp] theorem State.setCollisionFlag_dt (c : Bool) : (s.setCollisionFlag c).dt = s.dt := rfl
@[simp] theorem State.setCollisionFlag_st (c : Bool) : (s.setCollisionFlag c).st = s.st := rfl
@[simp] theorem State.setCollisionFlag_mem (c : Bool) : (s.setCollisionFlag c).mem = s.mem := rfl
@[simp] theorem State.setCollisionFlag_fault (c : Bool) : (s.setCollisionFlag c).fault = s.fault := rfl
@[simp] theorem State.setCollisionFlag_inputs (c : Bool) : (s.setCollisionFlag c).inputs = s.inputs := rfl
@[simp] theorem State.setCollisionFlag_cycles (c : Bool) : (s.setCollisionFlag c).cycles = s.cycles := rfl
@[simp] theorem State.setCollisionFlag_outputs (c : Bool) : (s.setCollisionFlag c).outputs = s.outputs := rfl

/-! ## `stepIndex` -/

@[simp] theorem State.stepIndex_v (x : Reg) : (s.stepIndex x).v = s.v := rfl
@[simp] theorem State.stepIndex_i (x : Reg) : (s.stepIndex x).i = s.i + BitVec.ofNat 16 (blockLen x) := rfl
@[simp] theorem State.stepIndex_pc (x : Reg) : (s.stepIndex x).pc = s.pc := rfl
@[simp] theorem State.stepIndex_stack (x : Reg) : (s.stepIndex x).stack = s.stack := rfl
@[simp] theorem State.stepIndex_sp (x : Reg) : (s.stepIndex x).sp = s.sp := rfl
@[simp] theorem State.stepIndex_dt (x : Reg) : (s.stepIndex x).dt = s.dt := rfl
@[simp] theorem State.stepIndex_st (x : Reg) : (s.stepIndex x).st = s.st := rfl
@[simp] theorem State.stepIndex_mem (x : Reg) : (s.stepIndex x).mem = s.mem := rfl
@[simp] theorem State.stepIndex_fault (x : Reg) : (s.stepIndex x).fault = s.fault := rfl
@[simp] theorem State.stepIndex_inputs (x : Reg) : (s.stepIndex x).inputs = s.inputs := rfl
@[simp] theorem State.stepIndex_cycles (x : Reg) : (s.stepIndex x).cycles = s.cycles := rfl
@[simp] theorem State.stepIndex_outputs (x : Reg) : (s.stepIndex x).outputs = s.outputs := rfl

/-! ## `countdown` -/

@[simp] theorem State.countdown_v : (s.countdown).v = s.v := rfl
@[simp] theorem State.countdown_i : (s.countdown).i = s.i := rfl
@[simp] theorem State.countdown_pc : (s.countdown).pc = s.pc := rfl
@[simp] theorem State.countdown_stack : (s.countdown).stack = s.stack := rfl
@[simp] theorem State.countdown_sp : (s.countdown).sp = s.sp := rfl
@[simp] theorem State.countdown_dt : (s.countdown).dt = countDown s.dt := rfl
@[simp] theorem State.countdown_st : (s.countdown).st = countDown s.st := rfl
@[simp] theorem State.countdown_mem : (s.countdown).mem = s.mem := rfl
@[simp] theorem State.countdown_fault : (s.countdown).fault = s.fault := rfl
@[simp] theorem State.countdown_inputs : (s.countdown).inputs = s.inputs := rfl
@[simp] theorem State.countdown_cycles : (s.countdown).cycles = s.cycles := rfl
@[simp] theorem State.countdown_outputs : (s.countdown).outputs = if s.st = 1 then s.outputs ++ [.soundEvent] else s.outputs := rfl

/-! ## `load` -/

@[simp] theorem State.load_v (image : List Byte) : (s.load image).v = s.v := rfl
@[simp] theorem State.load_i (image : List Byte) : (s.load image).i = s.i := rfl
@[simp] theorem State.load_pc (image : List Byte) : (s.load image).pc = BitVec.ofNat 16 Config.loadAddress := rfl
@[simp] theorem State.load_stack (image : List Byte) : (s.load image).stack = s.stack := rfl
@[simp] theorem State.load_sp (image : List Byte) : (s.load image).sp = s.sp := rfl
@[simp] theorem State.load_dt (image : List Byte) : (s.load image).dt = s.dt := rfl
@[simp] theorem State.load_st (image : List Byte) : (s.load image).st = s.st := rfl
@[simp] theorem State.load_mem (image : List Byte) : (s.load image).mem = s.mem.writeBytes Config.loadAddress (image.take Config.imageMax) := rfl
@[simp] theorem State.load_fault (image : List Byte) : (s.load image).fault = s.fault := rfl
@[simp] theorem State.load_inputs (image : List Byte) : (s.load image).inputs = s.inputs := rfl
@[simp] theorem State.load_cycles (image : List Byte) : (s.load image).cycles = s.cycles := rfl
@[simp] theorem State.load_outputs (image : List Byte) : (s.load image).outputs = s.outputs := rfl

/-! ## Reading a register after a write -/

@[simp] theorem State.reg_setReg (x r : Reg) (b : Byte) :
    (s.setReg x b).reg r = if r = x then b else s.reg r := by
  simp only [State.reg, State.setReg, Vector.getElem_set, BitVec.toNat_eq, eq_comm]

/-- Two states with the same register file give the same register values. -/
theorem State.reg_congr {s t : State} (h : t.v = s.v) (r : Reg) : t.reg r = s.reg r := by
  simp only [State.reg, h]

/-- A state is known by its register values. -/
theorem State.v_ext {s t : State} (h : ∀ r, t.reg r = s.reg r) : t.v = s.v := by
  apply Vector.ext
  intro k hk
  have := h (BitVec.ofNat 4 k)
  simpa [State.reg, Nat.mod_eq_of_lt hk] using this

/-- Writing a register with its own value changes nothing. -/
@[simp] theorem State.setReg_reg_self (x : Reg) : s.setReg x (s.reg x) = s := by
  simp [State.setReg, State.reg]

@[simp] theorem State.reg_setI (a : Word) (r : Reg) : (s.setI a).reg r = s.reg r := rfl
@[simp] theorem State.reg_setPc (a : Word) (r : Reg) : (s.setPc a).reg r = s.reg r := rfl
@[simp] theorem State.reg_advance (r : Reg) : (s.advance).reg r = s.reg r := rfl
@[simp] theorem State.reg_skipIf (c : Bool) (r : Reg) : (s.skipIf c).reg r = s.reg r := rfl
@[simp] theorem State.reg_setDt (b : Byte) (r : Reg) : (s.setDt b).reg r = s.reg r := rfl
@[simp] theorem State.reg_setSt (b : Byte) (r : Reg) : (s.setSt b).reg r = s.reg r := rfl
@[simp] theorem State.reg_emit (e : Event) (r : Reg) : (s.emit e).reg r = s.reg r := rfl
@[simp] theorem State.reg_nextInputs (r : Reg) : (s.nextInputs).reg r = s.reg r := rfl
@[simp] theorem State.reg_stepIndex (x : Reg) (r : Reg) : (s.stepIndex x).reg r = s.reg r := rfl
@[simp] theorem State.reg_countdown (r : Reg) : (s.countdown).reg r = s.reg r := rfl
@[simp] theorem State.reg_load (image : List Byte) (r : Reg) : (s.load image).reg r = s.reg r := rfl
@[simp] theorem State.reg_takeFault (e : Violation) (w : Option Word) (r : Reg) : (s.takeFault e w).reg r = s.reg r := rfl

@[simp] theorem State.reg_resultThenFlag (x r : Reg) (b f : Byte) :
    (s.resultThenFlag x b f).reg r = if r = vF then f else if r = x then b else s.reg r := by
  simp [State.resultThenFlag]

@[simp] theorem State.reg_flagThenResult (x r : Reg) (f b : Byte) :
    (s.flagThenResult x f b).reg r = if r = x then b else if r = vF then f else s.reg r := by
  simp [State.flagThenResult]

@[simp] theorem State.reg_setCollisionFlag (r : Reg) (c : Bool) :
    (s.setCollisionFlag c).reg r = if r = vF then flagByte c else s.reg r := by
  simp [State.setCollisionFlag]

/-! ## The block load of Fx65 -/

theorem getElem_loadRegsFrom (bs : List Byte) (k j : Nat) (v : Vector Byte 16) (hj : j < 16) :
    (loadRegsFrom k bs v)[j] = if h : k ≤ j ∧ j - k < bs.length then bs[j - k]'h.2 else v[j] := by
  induction bs generalizing k v with
  | nil => simp [loadRegsFrom]
  | cons b bs ih =>
    rw [loadRegsFrom, ih]
    by_cases hkj : k = j
    · subst hkj; simp
    · by_cases hlt : k + 1 ≤ j
      · have e : j - k = (j - (k + 1)) + 1 := by omega
        simp only [e, List.length_cons, List.getElem_cons_succ, hlt, true_and, Nat.add_lt_add_iff_right,
          Vector.getElem_setIfInBounds, hkj, if_false, show k ≤ j from by omega]
      · have : ¬ k ≤ j := by omega
        simp [hlt, this, hkj]

/-- `V[r]` after `V[0]`, `V[1]`, ... received the bytes. -/
theorem State.reg_loadRegs (bytes : List Byte) (r : Reg) :
    (s.loadRegs bytes).reg r = if h : r.toNat < bytes.length then bytes[r.toNat] else s.reg r := by
  simp [State.reg, State.loadRegs, getElem_loadRegsFrom]

end Sys2Proof.Machine
end

