-- ==== Sys2Proof/Laws/Memory.lean ====
section
/-! SUPPORT. The laws of memory: what reads as what after a write, and that every memory operation keeps the
canonical form. -/

namespace Sys2Proof.Machine

/-! ## Reading after writing -/

theorem Memory.read_eraseCell (m : Memory) (a x : Nat) :
    (m.eraseCell a).read x = if x = a then Memory.initial a else m.read x := by
  induction m with
  | nil => by_cases h : x = a <;> simp [Memory.eraseCell, Memory.read, h]
  | cons c m ih =>
    simp only [Memory.eraseCell] at ih ⊢
    by_cases hc : c.1 = a
    · rw [List.filter_cons_of_neg (by simp [hc]), ih]
      by_cases hx : x = a
      · simp [hx]
      · have : ¬ c.1 = x := fun e => hx (e ▸ hc)
        simp [Memory.read, hx, this]
    · rw [List.filter_cons_of_pos (by simp [hc]), Memory.read, ih]
      by_cases hx : x = a
      · simp [hx, hc]
      · simp [Memory.read, hx]

theorem Memory.read_of_not_listed (m : Memory) (a : Nat) (h : ∀ c ∈ m, c.1 ≠ a) : m.read a = Memory.initial a := by
  induction m with
  | nil => rfl
  | cons c m ih =>
    have hc := h c List.mem_cons_self
    simp only [Memory.read, hc, if_false]
    exact ih fun d hd => h d (List.mem_cons_of_mem _ hd)

theorem Memory.not_listed_eraseCell (m : Memory) (a : Nat) : ∀ c ∈ m.eraseCell a, c.1 ≠ a := by
  intro c hc
  simpa using (List.mem_filter.mp hc).2

theorem Memory.read_insertCell (m : Memory) (a x : Nat) (b : Byte) (h : ∀ c ∈ m, c.1 ≠ a) :
    (m.insertCell a b).read x = if x = a then b else m.read x := by
  induction m with
  | nil => simp only [Memory.insertCell, Memory.read, eq_comm]
  | cons c m ih =>
    have hc := h c List.mem_cons_self
    have hm := ih fun d hd => h d (List.mem_cons_of_mem _ hd)
    by_cases hlt : a < c.1
    · simp only [Memory.insertCell, hlt, if_true, Memory.read, eq_comm]
    · simp only [Memory.insertCell, hlt, if_false, Memory.read, hm]
      by_cases hx : x = a
      · subst hx; simp [hc]
      · simp [hx]

/-- A read after a write: the byte written at its address, what was there before elsewhere (20_memory.md R42). -/
@[simp] theorem Memory.read_write (m : Memory) (a x : Nat) (b : Byte) :
    (m.write a b).read x = if x = a then b else m.read x := by
  unfold Memory.write
  split
  · next h => rw [Memory.read_eraseCell, h]
  · rw [Memory.read_insertCell _ _ _ _ (Memory.not_listed_eraseCell m a), Memory.read_eraseCell]
    by_cases hx : x = a <;> simp [hx]

/-- A read after a run of writes (20_memory.md R41). -/
theorem Memory.read_writeBytes (bs : List Byte) (m : Memory) (a x : Nat) :
    (m.writeBytes a bs).read x = if h : a ≤ x ∧ x - a < bs.length then bs[x - a]'h.2 else m.read x := by
  induction bs generalizing m a with
  | nil => simp [Memory.writeBytes]
  | cons b bs ih =>
    rw [Memory.writeBytes, ih]
    by_cases hxa : x = a
    · subst hxa; simp
    · by_cases hlt : a + 1 ≤ x
      · have e : x - a = (x - (a + 1)) + 1 := by omega
        simp only [e, List.length_cons, List.getElem_cons_succ, hlt, true_and, Nat.add_lt_add_iff_right,
          Memory.read_write, hxa, if_false, show a ≤ x from by omega]
      · have : ¬ a ≤ x := by omega
        simp [hlt, this, hxa]

/-- A run of writes leaves every byte outside it alone. -/
theorem Memory.read_writeBytes_outside (bs : List Byte) (m : Memory) (a x : Nat)
    (h : x < a ∨ a + bs.length ≤ x) : (m.writeBytes a bs).read x = m.read x := by
  rw [Memory.read_writeBytes, dif_neg (by omega)]

@[simp] theorem Memory.length_readBytes (m : Memory) (a n : Nat) : (m.readBytes a n).length = n := by
  simp [Memory.readBytes]

@[simp] theorem Memory.getElem_readBytes (m : Memory) (a n k : Nat) (h : k < (m.readBytes a n).length) :
    (m.readBytes a n)[k] = m.read (a + k) := by
  simp [Memory.readBytes]

/-! ## The canonical form -/

theorem Memory.wf_nil : Memory.wf [] := by simp [Memory.wf]

theorem Memory.wf_eraseCell (m : Memory) (a : Nat) (h : m.wf) : (m.eraseCell a).wf :=
  ⟨h.1.filter _, fun c hc => h.2 c (List.mem_filter.mp hc).1⟩

theorem Memory.mem_insertCell (m : Memory) (a : Nat) (b : Byte) (d : Host.Cell) :
    d ∈ m.insertCell a b ↔ d = (a, b) ∨ d ∈ m := by
  induction m with
  | nil => simp [Memory.insertCell]
  | cons c m ih =>
    by_cases hlt : a < c.1
    · simp [Memory.insertCell, hlt]
    · simp only [Memory.insertCell, hlt, if_false, List.mem_cons, ih]
      tauto

theorem Memory.pairwise_insertCell (m : Memory) (a : Nat) (b : Byte)
    (hs : m.Pairwise fun c d => c.1 < d.1) (h : ∀ c ∈ m, c.1 ≠ a) :
    (m.insertCell a b).Pairwise fun c d => c.1 < d.1 := by
  induction m with
  | nil => simp [Memory.insertCell]
  | cons c m ih =>
    obtain ⟨hc, hm⟩ := List.pairwise_cons.mp hs
    by_cases hlt : a < c.1
    · simp only [Memory.insertCell, hlt, if_true, List.pairwise_cons]
      refine ⟨?_, hc, hm⟩
      intro d hd
      rcases List.mem_cons.mp hd with rfl | hd
      · exact hlt
      · exact hlt.trans (hc d hd)
    · simp only [Memory.insertCell, hlt, if_false, List.pairwise_cons]
      refine ⟨?_, ih hm fun d hd => h d (List.mem_cons_of_mem _ hd)⟩
      intro d hd
      rcases (Memory.mem_insertCell m a b d).mp hd with rfl | hd
      · have := h c List.mem_cons_self
        show c.1 < a
        omega
      · exact hc d hd

/-- Writing an existing address keeps the canonical form. -/
theorem Memory.wf_write (m : Memory) (a : Nat) (b : Byte) (h : m.wf) (ha : a < Config.memSize) : (m.write a b).wf := by
  have he := Memory.wf_eraseCell m a h
  unfold Memory.write
  split
  · exact he
  · next hb =>
    refine ⟨Memory.pairwise_insertCell _ _ _ he.1 (Memory.not_listed_eraseCell m a), ?_⟩
    intro c hc
    rcases (Memory.mem_insertCell _ _ _ _).mp hc with rfl | hc
    · exact ⟨ha, hb⟩
    · exact he.2 c hc

/-- A run of writes inside memory keeps the canonical form. -/
theorem Memory.wf_writeBytes (bs : List Byte) (m : Memory) (a : Nat) (h : m.wf)
    (ha : bs = [] ∨ a + bs.length ≤ Config.memSize) : (m.writeBytes a bs).wf := by
  induction bs generalizing m a with
  | nil => exact h
  | cons b bs ih =>
    have hlen : a + (bs.length + 1) ≤ Config.memSize := by simpa using ha
    exact ih _ _ (Memory.wf_write m a b h (by omega)) (Or.inr (by omega))

/-! ## The two accesses of the rules (20_memory.md R36) -/

theorem accessOk_iff (addr n : Nat) : accessOk addr n = true ↔ n = 0 ∨ addr + n ≤ 4096 := by
  exact decide_eq_true_iff

/-- Everything `memRead` can answer. -/
theorem State.memRead_cases (s : State) (addr n : Nat) :
    ((n = 0 ∨ addr + n ≤ 4096) ∧ s.memRead addr n = .ok (s.mem.readBytes addr n)) ∨
    ((0 < n ∧ 4096 < addr + n) ∧ s.memRead addr n = .error ⟨.memOor, max addr 4096⟩) := by
  by_cases h : n = 0 ∨ addr + n ≤ 4096
  · exact .inl ⟨h, by simp [State.memRead, (accessOk_iff addr n).mpr h]⟩
  · have hf : accessOk addr n = false := by
      rw [← Bool.not_eq_true, accessOk_iff]; exact h
    exact .inr ⟨by omega, by simp [State.memRead, hf, memViolation, Config.memSize]⟩

/-- Everything `memWrite` can answer. -/
theorem State.memWrite_cases (s : State) (addr : Nat) (bytes : List Byte) :
    ((bytes.length = 0 ∨ addr + bytes.length ≤ 4096) ∧
      s.memWrite addr bytes = .ok { s with mem := s.mem.writeBytes addr bytes }) ∨
    ((0 < bytes.length ∧ 4096 < addr + bytes.length) ∧
      s.memWrite addr bytes = .error ⟨.memOor, max addr 4096⟩) := by
  by_cases h : bytes.length = 0 ∨ addr + bytes.length ≤ 4096
  · exact .inl ⟨h, by simp only [State.memWrite, (accessOk_iff addr _).mpr h, if_true]⟩
  · have hf : accessOk addr bytes.length = false := by
      rw [← Bool.not_eq_true, accessOk_iff]; exact h
    exact .inr ⟨by omega, by simp [State.memWrite, hf, memViolation, Config.memSize]⟩

/-- A completed write keeps the canonical form. -/
theorem State.memWrite_wf (s t : State) (addr : Nat) (bytes : List Byte) (h : s.mem.wf)
    (ht : s.memWrite addr bytes = .ok t) : t.mem.wf := by
  rcases s.memWrite_cases addr bytes with ⟨hb, e⟩ | ⟨-, e⟩
  · rw [e] at ht
    obtain rfl := Except.ok.inj ht
    refine Memory.wf_writeBytes bytes s.mem addr h ?_
    rcases hb with hb | hb
    · exact .inl (List.eq_nil_of_length_eq_zero hb)
    · exact .inr hb
  · rw [e] at ht; cases ht

/-- Loading an image keeps the canonical form (70_reset_and_hazards.md R167). -/
theorem State.load_wf (s : State) (image : List Byte) (h : s.mem.wf) : (s.load image).mem.wf := by
  refine Memory.wf_writeBytes _ s.mem _ h (.inr ?_)
  simp only [List.length_take, Config.loadAddress, Config.imageMax, Config.memSize]
  omega

/-- Reset leaves the canonical form, whatever the font (70_reset_and_hazards.md R165). -/
theorem State.resetCore_wf (s : State) (font : Vector Byte 80) : (s.resetCore font).mem.wf := by
  refine Memory.wf_writeBytes _ [] _ Memory.wf_nil (.inr ?_)
  simp [Config.memSize]

theorem State.reset_wf : State.reset.mem.wf := Memory.wf_nil

/-- Placing a word where the next fetch reads it keeps the canonical form. -/
theorem State.placeWord_wf (s : State) (w : Word) (h : s.mem.wf) : (s.placeWord w).mem.wf := by
  refine Memory.wf_writeBytes _ s.mem _ h (.inr ?_)
  simp only [bytesOfWord, List.length_cons, List.length_nil, fetchMax, Config.memSize, Config.loadAddress]
  by_cases hp : 4096 - 2 < s.pc.toNat
  · simp [hp]
  · simp only [hp, if_false]; omega

end Sys2Proof.Machine
end

