-- ==== Sys2Proof/Laws/Ops.lean ====
section
/-! SUPPORT. One lemma for each shared operation: everything it can answer. -/

namespace Sys2Proof.Machine

/-! ## The call stack -/

/-- Everything `pushCall` can answer (42_control_flow.md R87). -/
theorem State.pushCall_cases (s : State) (w : Word) :
    (s.sp.toNat < 15 ∧
      s.pushCall w = .ok { s with stack := s.stack.set s.sp.toNat w s.sp.isLt, sp := s.sp + 1 }) ∨
    (s.sp.toNat = 15 ∧ s.pushCall w = .error ⟨.stackOverflow, 15⟩) := by
  have hlt := s.sp.isLt
  by_cases h : s.sp.toNat = 15
  · exact .inr ⟨h, by simp [State.pushCall, h, Config.spLimit]⟩
  · exact .inl ⟨by omega, by simp only [State.pushCall, Config.spLimit, h, if_false]⟩

/-- Everything `popCall` can answer (42_control_flow.md R85). -/
theorem State.popCall_cases (s : State) :
    (0 < s.sp.toNat ∧
      s.popCall = .ok { s with sp := s.sp - 1, pc := s.stack[(s.sp - 1).toNat]'(s.sp - 1).isLt }) ∨
    (s.sp.toNat = 0 ∧ s.popCall = .error ⟨.stackUnderflow, 0⟩) := by
  by_cases h : s.sp.toNat = 0
  · exact .inr ⟨h, by simp only [State.popCall, h, if_true]⟩
  · exact .inl ⟨by omega, by simp only [State.popCall, h, if_false]⟩

/-! ## The environment -/

/-- Everything `keyPressed` can answer (43_skips.md R95, R96). -/
theorem State.keyPressed_cases (s : State) (k : Byte) :
    (k.toNat ≤ 15 ∧ s.keyPressed k = .ok (s.keys.getLsbD k.toNat)) ∨
    (15 < k.toNat ∧ s.keyPressed k = .error ⟨.keyIndex, k.toNat⟩) := by
  by_cases h : 15 < k.toNat
  · exact .inr ⟨h, by simp only [State.keyPressed, Config.keyLimit, h, if_true]⟩
  · exact .inl ⟨by omega, by simp only [State.keyPressed, Config.keyLimit, h, if_false]⟩

/-- No key is found exactly when none is pressed (46_random_timers_keywait.md R127). -/
theorem lowestKey_eq_none (keys : BitVec 16) : lowestKey keys = none ↔ keys = 0 := by
  constructor
  · intro h
    ext k hk
    simpa [BitVec.getLsbD_eq_getElem hk] using List.find?_eq_none.mp h k (List.mem_range.mpr hk)
  · rintro rfl
    decide

/-- The key found is pressed and no lower one is (46_random_timers_keywait.md R127). -/
theorem lowestKey_eq_some (keys : BitVec 16) (k : Nat) (h : lowestKey keys = some k) :
    k < 16 ∧ keys.getLsbD k = true ∧ ∀ j, j < k → keys.getLsbD j = false := by
  obtain ⟨hk, as, bs, hsplit, hnone⟩ := List.find?_eq_some_iff_append.mp h
  have hmem : k ∈ List.range 16 := by rw [hsplit]; simp
  refine ⟨List.mem_range.mp hmem, hk, fun j hj => ?_⟩
  have hj16 : j ∈ List.range 16 := List.mem_range.mpr (by have := List.mem_range.mp hmem; omega)
  have hsorted : (List.range 16).Pairwise (· < ·) := List.pairwise_lt_range
  rw [hsplit] at hj16 hsorted
  rcases List.mem_append.mp hj16 with hja | hjb
  · simpa using hnone j hja
  · obtain ⟨-, hkb, -⟩ := List.pairwise_append.mp hsorted
    rcases List.mem_cons.mp hjb with rfl | hjb
    · omega
    · have := (List.pairwise_cons.mp hkb).1 j hjb
      omega

/-! ## Commit -/

/-- Everything `commit` can answer: the completed writes, or the fault entry in the state the instruction started
in (00_scope.md R7, 60_exceptions.md R141). -/
theorem commit_cases {i : Instr} {s t : State} {r : Except Violation State} (h : commit i s r = .next t) :
    r = .ok t ∨ ∃ e, r = .error e ∧ t = s.takeFault e (some (encode i)) := by
  cases r with
  | ok u => exact .inl (by simp only [commit, Host.Outcome.next.injEq] at h; rw [h])
  | error e => exact .inr ⟨e, rfl, by simp only [commit, Host.Outcome.next.injEq] at h; exact h.symm⟩

@[simp] theorem commit_ok (i : Instr) (s t : State) : commit i s (.ok t) = .next t := rfl

@[simp] theorem commit_error (i : Instr) (s : State) (e : Violation) :
    commit i s (.error e) = .next (s.takeFault e (some (encode i))) := rfl

@[simp] theorem except_map_ok {α β : Type} (f : α → β) (a : α) :
    Except.map f (.ok a : Except Violation α) = .ok (f a) := rfl

@[simp] theorem except_map_error {α β : Type} (f : α → β) (e : Violation) :
    Except.map f (.error e : Except Violation α) = .error e := rfl

/-! ## Fetch and the end of a cycle -/

/-- Everything `fetch` can answer (40_cycle.md R66). -/
theorem State.fetch_cases (s : State) :
    (s.pc.toNat ≤ 4094 ∧ s.fetch = .ok (wordOfBytes (s.mem.read s.pc.toNat) (s.mem.read (s.pc.toNat + 1)))) ∨
    (4094 < s.pc.toNat ∧ s.fetch = .error ⟨.fetchOor, s.pc.toNat⟩) := by
  by_cases h : 4094 < s.pc.toNat
  · exact .inr ⟨h, by simp only [State.fetch, fetchMax, Config.memSize, h, if_true]⟩
  · have h' : ¬ (4096 - 2 < s.pc.toNat) := h
    exact .inl ⟨by omega, by simp only [State.fetch, fetchMax, Config.memSize, h', if_false]⟩

/-- A timer after the countdown (40_cycle.md R70). -/
theorem toNat_countDown (b : Byte) : (countDown b).toNat = b.toNat - 1 := by
  unfold countDown
  split
  · next h => simp [h]
  · next h =>
    have : b.toNat ≠ 0 := fun e => h (BitVec.eq_of_toNat_eq e)
    have h1 : (1 : Byte).toNat = 1 := rfl
    rw [BitVec.toNat_sub_of_le (by rw [BitVec.le_def, h1]; omega), h1]

/-- The end of a cycle that did not fault (40_cycle.md R69). -/
theorem State.finishCycle_running (t : State) (h : t.fault = none) : t.finishCycle = t.countdown.nextInputs := by
  simp [State.finishCycle, h]

/-- The end of a faulting cycle (40_cycle.md R72). -/
theorem State.finishCycle_faulted (t : State) (r : FaultRecord) (h : t.fault = some r) : t.finishCycle = t := by
  simp [State.finishCycle, h]

/-- Everything `step` can answer, in terms of the execute step (40_cycle.md R75). -/
theorem step_cases (s : State) :
    (∃ r, s.fault = some r ∧ step s = .fault (.halted r)) ∨
    (s.fault = none ∧ 4094 < s.pc.toNat ∧ step s = .next (s.takeFault ⟨.fetchOor, s.pc.toNat⟩ none)) ∨
    (s.fault = none ∧ s.pc.toNat ≤ 4094 ∧
      step s = endCycle (runWord (wordOfBytes (s.mem.read s.pc.toNat) (s.mem.read (s.pc.toNat + 1))) s)) := by
  cases hf : s.fault with
  | some r => exact .inl ⟨r, rfl, by simp only [step, hf]⟩
  | none =>
    rcases s.fetch_cases with ⟨hp, e⟩ | ⟨hp, e⟩
    · exact .inr (.inr ⟨rfl, hp, by simp only [step, hf, e]⟩)
    · exact .inr (.inl ⟨rfl, hp, by simp only [step, hf, e]⟩)

end Sys2Proof.Machine
end

