-- ==== Sys2Proof/Laws/PerInstr.lean ====
section
/-! SUPPORT. A law of every instruction, one lemma per constructor: its word has the fixed nibbles of its row of
the opcode map (30_encoding.md R55). -/

namespace Sys2Proof

/-! ## The four masks of the opcode map -/

theorem formatNNN_mask (a : Nibble) (r : Addr12) : formatNNN a r &&& 0xF000#16 = formatNNN a 0#12 := by
  have h : formatNNN a r &&& 0xF000#16 = (a ++ r) &&& (0xF#4 ++ 0x000#12) := rfl
  have ha : a &&& 0xF#4 = a := BitVec.and_allOnes
  rw [h, BitVec.and_append, ha, BitVec.and_zero]
  rfl

theorem formatXNN_mask (a : Nibble) (x : Reg) (b : Byte) :
    formatXNN a x b &&& 0xF000#16 = formatXNN a 0#4 0#8 := by
  have h : formatXNN a x b &&& 0xF000#16 = (a ++ x ++ b) &&& (0xF#4 ++ 0x0#4 ++ 0x00#8) := rfl
  have ha : a &&& 0xF#4 = a := BitVec.and_allOnes
  rw [h, BitVec.and_append, BitVec.and_append, ha, BitVec.and_zero, BitVec.and_zero]
  rfl

theorem formatXNN_mask_low (a : Nibble) (x : Reg) (b : Byte) :
    formatXNN a x b &&& 0xF0FF#16 = formatXNN a 0#4 b := by
  have h : formatXNN a x b &&& 0xF0FF#16 = (a ++ x ++ b) &&& (0xF#4 ++ 0x0#4 ++ 0xFF#8) := rfl
  have ha : a &&& 0xF#4 = a := BitVec.and_allOnes
  have hb : b &&& 0xFF#8 = b := BitVec.and_allOnes
  rw [h, BitVec.and_append, BitVec.and_append, ha, hb, BitVec.and_zero]
  rfl

theorem formatXYN_mask (a : Nibble) (x y : Reg) (n : Nibble) :
    formatXYN a x y n &&& 0xF00F#16 = formatXYN a 0#4 0#4 n := by
  have h : formatXYN a x y n &&& 0xF00F#16 = (a ++ x ++ y ++ n) &&& (0xF#4 ++ 0x0#4 ++ 0x0#4 ++ 0xF#4) := rfl
  have ha : a &&& 0xF#4 = a := BitVec.and_allOnes
  have hn : n &&& 0xF#4 = n := BitVec.and_allOnes
  rw [h, BitVec.and_append, BitVec.and_append, BitVec.and_append, ha, hn, BitVec.and_zero, BitVec.and_zero]
  rfl

theorem formatXYN_mask_op (a : Nibble) (x y : Reg) (n : Nibble) :
    formatXYN a x y n &&& 0xF000#16 = formatXYN a 0#4 0#4 0#4 := by
  have h : formatXYN a x y n &&& 0xF000#16 = (a ++ x ++ y ++ n) &&& (0xF#4 ++ 0x0#4 ++ 0x0#4 ++ 0x0#4) := rfl
  have ha : a &&& 0xF#4 = a := BitVec.and_allOnes
  rw [h, BitVec.and_append, BitVec.and_append, BitVec.and_append, ha, BitVec.and_zero, BitVec.and_zero,
    BitVec.and_zero]
  rfl

namespace Laws.FixedBits

/-- The instruction's word selects a row of the opcode map with the instruction's mnemonic. -/
def Statement (i : Instr) : Prop := ∃ r ∈ opcodeMap, r.mnemonic = i.mnemonic ∧ r.selects (encode i)

theorem cls : Statement (.cls) :=
  ⟨⟨0x00E0#16, 0xFFFF#16, "CLS"⟩, by decide, rfl, rfl⟩

theorem ret : Statement (.ret) :=
  ⟨⟨0x00EE#16, 0xFFFF#16, "RET"⟩, by decide, rfl, rfl⟩

theorem jp (nnn : Addr12) : Statement (.jp nnn) :=
  ⟨⟨0x1000#16, 0xF000#16, "JP"⟩, by decide, rfl, formatNNN_mask _ nnn⟩

theorem call (nnn : Addr12) : Statement (.call nnn) :=
  ⟨⟨0x2000#16, 0xF000#16, "CALL"⟩, by decide, rfl, formatNNN_mask _ nnn⟩

theorem seImm (x : Reg) (nn : Byte) : Statement (.seImm x nn) :=
  ⟨⟨0x3000#16, 0xF000#16, "SE_imm"⟩, by decide, rfl, formatXNN_mask _ x nn⟩

theorem sneImm (x : Reg) (nn : Byte) : Statement (.sneImm x nn) :=
  ⟨⟨0x4000#16, 0xF000#16, "SNE_imm"⟩, by decide, rfl, formatXNN_mask _ x nn⟩

theorem seReg (x y : Reg) : Statement (.seReg x y) :=
  ⟨⟨0x5000#16, 0xF00F#16, "SE_reg"⟩, by decide, rfl, formatXYN_mask _ x y _⟩

theorem ldImm (x : Reg) (nn : Byte) : Statement (.ldImm x nn) :=
  ⟨⟨0x6000#16, 0xF000#16, "LD_imm"⟩, by decide, rfl, formatXNN_mask _ x nn⟩

theorem addImm (x : Reg) (nn : Byte) : Statement (.addImm x nn) :=
  ⟨⟨0x7000#16, 0xF000#16, "ADD_imm"⟩, by decide, rfl, formatXNN_mask _ x nn⟩

theorem ldReg (x y : Reg) : Statement (.ldReg x y) :=
  ⟨⟨0x8000#16, 0xF00F#16, "LD_reg"⟩, by decide, rfl, formatXYN_mask _ x y _⟩

theorem or (x y : Reg) : Statement (.or x y) :=
  ⟨⟨0x8001#16, 0xF00F#16, "OR"⟩, by decide, rfl, formatXYN_mask _ x y _⟩

theorem and (x y : Reg) : Statement (.and x y) :=
  ⟨⟨0x8002#16, 0xF00F#16, "AND"⟩, by decide, rfl, formatXYN_mask _ x y _⟩

theorem xor (x y : Reg) : Statement (.xor x y) :=
  ⟨⟨0x8003#16, 0xF00F#16, "XOR"⟩, by decide, rfl, formatXYN_mask _ x y _⟩

theorem addReg (x y : Reg) : Statement (.addReg x y) :=
  ⟨⟨0x8004#16, 0xF00F#16, "ADD_reg"⟩, by decide, rfl, formatXYN_mask _ x y _⟩

theorem sub (x y : Reg) : Statement (.sub x y) :=
  ⟨⟨0x8005#16, 0xF00F#16, "SUB"⟩, by decide, rfl, formatXYN_mask _ x y _⟩

theorem shr (x y : Reg) : Statement (.shr x y) :=
  ⟨⟨0x8006#16, 0xF00F#16, "SHR"⟩, by decide, rfl, formatXYN_mask _ x y _⟩

theorem subn (x y : Reg) : Statement (.subn x y) :=
  ⟨⟨0x8007#16, 0xF00F#16, "SUBN"⟩, by decide, rfl, formatXYN_mask _ x y _⟩

theorem shl (x y : Reg) : Statement (.shl x y) :=
  ⟨⟨0x800E#16, 0xF00F#16, "SHL"⟩, by decide, rfl, formatXYN_mask _ x y _⟩

theorem sneReg (x y : Reg) : Statement (.sneReg x y) :=
  ⟨⟨0x9000#16, 0xF00F#16, "SNE_reg"⟩, by decide, rfl, formatXYN_mask _ x y _⟩

theorem ldI (nnn : Addr12) : Statement (.ldI nnn) :=
  ⟨⟨0xA000#16, 0xF000#16, "LD_I"⟩, by decide, rfl, formatNNN_mask _ nnn⟩

theorem jpV0 (nnn : Addr12) : Statement (.jpV0 nnn) :=
  ⟨⟨0xB000#16, 0xF000#16, "JP_V0"⟩, by decide, rfl, formatNNN_mask _ nnn⟩

theorem rnd (x : Reg) (nn : Byte) : Statement (.rnd x nn) :=
  ⟨⟨0xC000#16, 0xF000#16, "RND"⟩, by decide, rfl, formatXNN_mask _ x nn⟩

theorem drw (x y : Reg) (n : Nat) : Statement (.drw x y n) :=
  ⟨⟨0xD000#16, 0xF000#16, "DRW"⟩, by decide, rfl, formatXYN_mask_op _ x y _⟩

theorem skp (x : Reg) : Statement (.skp x) :=
  ⟨⟨0xE09E#16, 0xF0FF#16, "SKP"⟩, by decide, rfl, formatXNN_mask_low _ x _⟩

theorem sknp (x : Reg) : Statement (.sknp x) :=
  ⟨⟨0xE0A1#16, 0xF0FF#16, "SKNP"⟩, by decide, rfl, formatXNN_mask_low _ x _⟩

theorem ldVxDt (x : Reg) : Statement (.ldVxDt x) :=
  ⟨⟨0xF007#16, 0xF0FF#16, "LD_Vx_DT"⟩, by decide, rfl, formatXNN_mask_low _ x _⟩

theorem ldVxK (x : Reg) : Statement (.ldVxK x) :=
  ⟨⟨0xF00A#16, 0xF0FF#16, "LD_Vx_K"⟩, by decide, rfl, formatXNN_mask_low _ x _⟩

theorem ldDtVx (x : Reg) : Statement (.ldDtVx x) :=
  ⟨⟨0xF015#16, 0xF0FF#16, "LD_DT_Vx"⟩, by decide, rfl, formatXNN_mask_low _ x _⟩

theorem ldStVx (x : Reg) : Statement (.ldStVx x) :=
  ⟨⟨0xF018#16, 0xF0FF#16, "LD_ST_Vx"⟩, by decide, rfl, formatXNN_mask_low _ x _⟩

theorem addI (x : Reg) : Statement (.addI x) :=
  ⟨⟨0xF01E#16, 0xF0FF#16, "ADD_I"⟩, by decide, rfl, formatXNN_mask_low _ x _⟩

theorem ldF (x : Reg) : Statement (.ldF x) :=
  ⟨⟨0xF029#16, 0xF0FF#16, "LD_F"⟩, by decide, rfl, formatXNN_mask_low _ x _⟩

theorem ldB (x : Reg) : Statement (.ldB x) :=
  ⟨⟨0xF033#16, 0xF0FF#16, "LD_B"⟩, by decide, rfl, formatXNN_mask_low _ x _⟩

theorem stRegs (x : Reg) : Statement (.stRegs x) :=
  ⟨⟨0xF055#16, 0xF0FF#16, "ST_regs"⟩, by decide, rfl, formatXNN_mask_low _ x _⟩

theorem ldRegs (x : Reg) : Statement (.ldRegs x) :=
  ⟨⟨0xF065#16, 0xF0FF#16, "LD_regs"⟩, by decide, rfl, formatXNN_mask_low _ x _⟩

end Laws.FixedBits

end Sys2Proof
end

