-- ==== Sys2Proof/Laws/Session.lean ====
section
/-! SUPPORT. Everything a move of the host can answer (70_reset_and_hazards.md R183). -/

namespace Sys2Proof.Machine

/-- An invocation of a faulted core does nothing (60_exceptions.md R142). -/
theorem State.invoke_faulted (s : State) (e : EnvInputs) (r : FaultRecord) (h : s.fault = some r) :
    s.invoke e = s := by
  simp [State.invoke, step, h]

/-- An invocation that `step` answers by a next state gives that state. -/
theorem State.invoke_next (s t : State) (e : EnvInputs) (h : step { s with inputs := [e] } = .next t) :
    s.invoke e = t := by
  simp [State.invoke, h]

/-- Everything an accepted move does. -/
theorem Session.move_cases {h h' : Session} {m : HostMove} (hm : h.move m = .ok h') :
    h.phase ≠ .stopped ∧
    ((∃ font, m = .reset font ∧ h' = ⟨h.core.resetCore font, .fresh, h.keys⟩) ∨
     (∃ image, m = .load image ∧ h.phase = .fresh ∧ h' = ⟨h.core.load image, .started, h.keys⟩) ∨
     (∃ key pressed, m = .setPressed key pressed ∧ h' = ⟨h.core, h.phase, setKey h.keys key pressed⟩) ∨
     (∃ rand collision, m = .cycle rand collision ∧
       h' = ⟨h.core.invoke ⟨h.keys, rand, collision⟩, .started, h.keys⟩) ∨
     (m = .present ∧ h' = h) ∨
     (m = .stop ∧ h' = ⟨h.core, .stopped, h.keys⟩)) := by
  rcases h with ⟨core, phase, keys⟩
  cases phase <;> cases m <;> simp only [Session.move, Except.ok.injEq, reduceCtorEq] at hm <;> subst hm <;>
    refine ⟨by simp, ?_⟩
  all_goals
    first
    | exact .inl ⟨_, rfl, rfl⟩
    | exact .inr (.inl ⟨_, rfl, rfl, rfl⟩)
    | exact .inr (.inr (.inl ⟨_, _, rfl, rfl⟩))
    | exact .inr (.inr (.inr (.inl ⟨_, _, rfl, rfl⟩)))
    | exact .inr (.inr (.inr (.inr (.inl ⟨rfl, rfl⟩))))
    | exact .inr (.inr (.inr (.inr (.inr ⟨rfl, rfl⟩))))

/-- The key states after `set_pressed` (60_exceptions.md R152). -/
theorem getLsbD_setKey (keys : BitVec 16) (key : BitVec 4) (pressed : Bool) (k : Nat) (hk : k < 16) :
    (setKey keys key pressed).getLsbD k = if k = key.toNat then pressed else keys.getLsbD k := by
  have := key.isLt
  by_cases h : k = key.toNat
  · subst h; cases pressed <;> simp [setKey, hk]
  · have h' : ¬ (key.toNat ≤ k ∧ k - key.toNat = 0) := by omega
    cases pressed <;> simp [setKey, hk, h] <;> omega

end Sys2Proof.Machine
end

