-- ==== Sys2Proof/Tests/Slice0.lean ====
section
/-! SUPPORT. Tests of the model. Expected results come from spec/95_test_vectors.md (its vector is named in the
docstring) or from words written out from the patterns of 30_encoding.md R55. Last, for every obligation that has
hypotheses, a witness that they can be met together. -/

namespace Sys2Proof.Tests

open Sys2Proof.Machine

/-! ## Helpers -/

/-- The registers listed, 0 elsewhere. -/
def regs (l : List (Reg × Byte)) : Vector Byte 16 := l.foldl (fun v p => v.set p.1.toNat p.2 p.1.isLt) State.reset.v

/-- The launch state with one word loaded at 0x200 and the inputs of one cycle: keys, random byte, collision. -/
def start (w : Word) (keys : BitVec 16 := 0) (rand : Byte := 0) (collision : Bool := false) : State :=
  { State.reset.load (bytesOfWord w) with inputs := [⟨keys, rand, collision⟩] }

/-- One cycle answers a next state with the property. -/
def after (s : State) (p : State → Bool) : Bool :=
  match step s with
  | .next t => p t
  | _ => false

/-- The cycle faults with this record and changes nothing else. -/
def faultsWith (s : State) (r : FaultRecord) : Bool := after s fun t => decide (t = { s with fault := some r })

/-! ## Well-formedness: the one check, and a term it refuses -/

theorem test_wf_rejects_sixteen_rows : (Instr.drw 0 1 16).wf = false := by decide
theorem test_wf_accepts_fifteen_rows : (Instr.drw 0 1 15).wf = true := by decide

/-! ## Decoding: a word of every row of the opcode map, written from its pattern -/

theorem test_decode_family0 :
    decodeWord 0x00E0#16 = .ok .cls ∧ decodeWord 0x00EE#16 = .ok .ret := by decide
theorem test_decode_jumps :
    decodeWord 0x1ABC#16 = .ok (.jp 0xABC) ∧ decodeWord 0x2DEF#16 = .ok (.call 0xDEF) ∧
    decodeWord 0xB123#16 = .ok (.jpV0 0x123) := by decide
theorem test_decode_skips :
    decodeWord 0x3A05#16 = .ok (.seImm 0xA 0x05) ∧ decodeWord 0x4B16#16 = .ok (.sneImm 0xB 0x16) ∧
    decodeWord 0x5120#16 = .ok (.seReg 0x1 0x2) ∧ decodeWord 0x9FE0#16 = .ok (.sneReg 0xF 0xE) ∧
    decodeWord 0xE59E#16 = .ok (.skp 0x5) ∧ decodeWord 0xE6A1#16 = .ok (.sknp 0x6) := by decide
theorem test_decode_immediates :
    decodeWord 0x6A7B#16 = .ok (.ldImm 0xA 0x7B) ∧ decodeWord 0x7C8D#16 = .ok (.addImm 0xC 0x8D) ∧
    decodeWord 0xC30F#16 = .ok (.rnd 0x3 0x0F) := by decide
theorem test_decode_family8 :
    decodeWord 0x8120#16 = .ok (.ldReg 1 2) ∧ decodeWord 0x8341#16 = .ok (.or 3 4) ∧
    decodeWord 0x8562#16 = .ok (.and 5 6) ∧ decodeWord 0x8783#16 = .ok (.xor 7 8) ∧
    decodeWord 0x89A4#16 = .ok (.addReg 9 0xA) ∧ decodeWord 0x8BC5#16 = .ok (.sub 0xB 0xC) ∧
    decodeWord 0x8DE6#16 = .ok (.shr 0xD 0xE) ∧ decodeWord 0x8F07#16 = .ok (.subn 0xF 0) ∧
    decodeWord 0x812E#16 = .ok (.shl 1 2) := by decide
theorem test_decode_index :
    decodeWord 0xA2F0#16 = .ok (.ldI 0x2F0) ∧ decodeWord 0xD12F#16 = .ok (.drw 1 2 15) := by decide
theorem test_decode_timers :
    decodeWord 0xF107#16 = .ok (.ldVxDt 1) ∧ decodeWord 0xF20A#16 = .ok (.ldVxK 2) ∧
    decodeWord 0xF315#16 = .ok (.ldDtVx 3) ∧ decodeWord 0xF418#16 = .ok (.ldStVx 4) := by decide
theorem test_decode_memory :
    decodeWord 0xF51E#16 = .ok (.addI 5) ∧ decodeWord 0xF629#16 = .ok (.ldF 6) ∧
    decodeWord 0xF733#16 = .ok (.ldB 7) ∧ decodeWord 0xF855#16 = .ok (.stRegs 8) ∧
    decodeWord 0xF965#16 = .ok (.ldRegs 9) := by decide

/-- Words the table has no row for (95_test_vectors.md, "Unrecognized words and fetch"). -/
theorem test_decode_rejects_low :
    decodeWord 0x0000#16 = .error (.unrecognized 0x0000#16) ∧
    decodeWord 0x00E1#16 = .error (.unrecognized 0x00E1#16) ∧
    decodeWord 0x5121#16 = .error (.unrecognized 0x5121#16) ∧
    decodeWord 0x8128#16 = .error (.unrecognized 0x8128#16) := by decide
theorem test_decode_rejects_high :
    decodeWord 0x812F#16 = .error (.unrecognized 0x812F#16) ∧
    decodeWord 0x9AB3#16 = .error (.unrecognized 0x9AB3#16) ∧
    decodeWord 0xE1A0#16 = .error (.unrecognized 0xE1A0#16) ∧
    decodeWord 0xF075#16 = .error (.unrecognized 0xF075#16) := by decide

theorem test_decode_truncated : decodeBytes [0x12] = .error (.truncated [0x12]) := by decide
theorem test_encode_high_byte_first : encodeBytes (.ldImm 0xA 0x7B) = [0x6A, 0x7B] := by decide
theorem test_decodeTableWord :
    decodeTableWord 16 0xD12F = some (.drw 1 2 15) ∧ decodeTableWord 16 0x8128 = none := by decide

/-- A word placed where the next fetch reads runs as the first instruction after reset. -/
theorem test_withFetchWord :
    after (State.reset.withFetchWord 16 0x6A7B) (fun t => t.reg 0xA == 0x7B && t.pc == 0x202) = true := by decide

/-! ## One step of each instruction (95_test_vectors.md) -/

/-- G1. -/
theorem test_cls :
    after (start 0x00E0) (fun t => t.outputs == [.displayClear] && t.pc == 0x202) = true := by decide
/-- K6. -/
theorem test_ret :
    after { start 0x00EE with sp := 1, stack := State.reset.stack.set 0 0x206 }
      (fun t => t.pc == 0x206 && t.sp == 0 && t.stack[0] == 0x206) = true := by decide
/-- K5. -/
theorem test_ret_underflow :
    faultsWith (start 0x00EE) ⟨.stackUnderflow, 0x200, some 0x00EE, 0⟩ = true := by decide
/-- K1. -/
theorem test_jp : after (start 0x1ABC) (fun t => t.pc == 0xABC) = true := by decide
/-- K3. -/
theorem test_call_last_level :
    after { start 0x2ABC with sp := 14 } (fun t => t.pc == 0xABC && t.sp == 15 && t.stack[14] == 0x202) = true := by
  decide
/-- K4. -/
theorem test_call_overflow :
    faultsWith { start 0x2ABC with sp := 15 } ⟨.stackOverflow, 0x200, some 0x2ABC, 15⟩ = true := by decide
/-- S1. -/
theorem test_seImm : after { start 0x3042 with v := regs [(0, 0x42)] } (fun t => t.pc == 0x204) = true := by decide
/-- S2. -/
theorem test_seImm_false : after { start 0x3042 with v := regs [(0, 0x43)] } (fun t => t.pc == 0x202) = true := by
  decide
/-- S3. -/
theorem test_sneImm_false : after { start 0x4042 with v := regs [(0, 0x42)] } (fun t => t.pc == 0x202) = true := by
  decide
/-- S4. -/
theorem test_sneImm : after { start 0x4042 with v := regs [(0, 0x43)] } (fun t => t.pc == 0x204) = true := by decide
/-- S5. -/
theorem test_seReg : after { start 0x5010 with v := regs [(0, 7), (1, 7)] } (fun t => t.pc == 0x204) = true := by
  decide
/-- S6. -/
theorem test_seReg_false : after { start 0x5010 with v := regs [(0, 7), (1, 8)] } (fun t => t.pc == 0x202) = true := by
  decide
/-- S7. -/
theorem test_sneReg_false : after { start 0x9010 with v := regs [(0, 7), (1, 7)] } (fun t => t.pc == 0x202) = true := by
  decide
/-- S8. -/
theorem test_sneReg : after { start 0x9010 with v := regs [(0, 7), (1, 8)] } (fun t => t.pc == 0x204) = true := by
  decide
/-- A24. -/
theorem test_ldImm : after (start 0x6A7B) (fun t => t.reg 0xA == 0x7B && t.pc == 0x202) = true := by decide
/-- A22. -/
theorem test_addImm_no_flag :
    after { start 0x7001 with v := regs [(0, 0xFF), (15, 0x55)] } (fun t => t.v == regs [(15, 0x55)]) = true := by
  decide
/-- A25. -/
theorem test_ldReg :
    after { start 0x8010 with v := regs [(0, 1), (1, 0x99)] } (fun t => t.v == regs [(0, 0x99), (1, 0x99)]) = true := by
  decide
/-- A19. -/
theorem test_or :
    after { start 0x8011 with v := regs [(0, 0xF0), (1, 0x0F), (15, 0x55)] }
      (fun t => t.v == regs [(0, 0xFF), (1, 0x0F), (15, 0x55)]) = true := by decide
/-- A20. -/
theorem test_and :
    after { start 0x8012 with v := regs [(0, 0xF3), (1, 0x3F), (15, 0x55)] }
      (fun t => t.v == regs [(0, 0x33), (1, 0x3F), (15, 0x55)]) = true := by decide
/-- A21. -/
theorem test_xor :
    after { start 0x8013 with v := regs [(0, 0xFF), (1, 0x0F), (15, 0x55)] }
      (fun t => t.v == regs [(0, 0xF0), (1, 0x0F), (15, 0x55)]) = true := by decide
/-- A5. -/
theorem test_addReg_old_flag_is_operand :
    after { start 0x80F4 with v := regs [(0, 0xF0), (15, 0x20)] }
      (fun t => t.v == regs [(0, 0x10), (15, 1)]) = true := by decide
/-- A4. -/
theorem test_addReg_flag_survives :
    after { start 0x8F14 with v := regs [(15, 0xFF), (1, 1)] } (fun t => t.v == regs [(1, 1), (15, 1)]) = true := by
  decide
/-- A7. -/
theorem test_sub_borrow :
    after { start 0x8015 with v := regs [(0, 5), (1, 6)] } (fun t => t.v == regs [(0, 0xFF), (1, 6)]) = true := by
  decide
/-- A6. -/
theorem test_sub_equal :
    after { start 0x8015 with v := regs [(0, 5), (1, 5)] } (fun t => t.v == regs [(1, 5), (15, 1)]) = true := by
  decide
/-- A13. -/
theorem test_shr :
    after { start 0x8016 with v := regs [(0, 0x05), (1, 0xAA)] }
      (fun t => t.v == regs [(0, 0x02), (1, 0xAA), (15, 1)]) = true := by decide
/-- A15 (log 6). -/
theorem test_shr_result_survives :
    after { start 0x8F16 with v := regs [(15, 0x07)] } (fun t => t.v == regs [(15, 0x03)]) = true := by decide
/-- A11. -/
theorem test_subn_borrow :
    after { start 0x8017 with v := regs [(0, 6), (1, 5)] } (fun t => t.v == regs [(0, 0xFF), (1, 5)]) = true := by
  decide
/-- A12. -/
theorem test_subn :
    after { start 0x8017 with v := regs [(0, 1), (1, 0xFF)] }
      (fun t => t.v == regs [(0, 0xFE), (1, 0xFF), (15, 1)]) = true := by decide
/-- A16. -/
theorem test_shl :
    after { start 0x801E with v := regs [(0, 0x81), (1, 0xAA)] }
      (fun t => t.v == regs [(0, 0x02), (1, 0xAA), (15, 1)]) = true := by decide
/-- A18 at the value where the two readings differ (log 6). -/
theorem test_shl_result_survives :
    after { start 0x8F1E with v := regs [(15, 0x41)] } (fun t => t.v == regs [(15, 0x82)]) = true := by decide
/-- M1. -/
theorem test_ldI : after (start 0xA2F0) (fun t => t.i == 0x2F0 && t.pc == 0x202) = true := by decide
/-- K7. -/
theorem test_jpV0 : after { start 0xBFFF with v := regs [(0, 0xFF)] } (fun t => t.pc == 0x10FE) = true := by decide
/-- R1. -/
theorem test_rnd :
    after { start 0xC30F 0 0xA7 with v := regs [(3, 0xFF)] } (fun t => t.v == regs [(3, 7)]) = true := by decide
/-- G3: glyph 7 of the default font (log 1). -/
theorem test_drw :
    after { start 0xD015 0 0 true with v := regs [(0, 3), (1, 2)], i := 0x23 }
      (fun t => t.outputs == [.displayDraw 3 2 [0xF0, 0x10, 0x20, 0x40, 0x40]] && t.reg vF == 1) = true := by decide
/-- G6. -/
theorem test_drw_past_the_end :
    faultsWith { start 0xD01F 0 0 true with v := regs [(15, 9)], i := 4082 }
      ⟨.memOor, 0x200, some 0xD01F, 4096⟩ = true := by decide
/-- S9. -/
theorem test_skp : after { start 0xE09E 0x0080 with v := regs [(0, 7)] } (fun t => t.pc == 0x204) = true := by decide
/-- S13. -/
theorem test_skp_key_index :
    faultsWith { start 0xE09E 0xFFFF with v := regs [(0, 16)] } ⟨.keyIndex, 0x200, some 0xE09E, 16⟩ = true := by
  decide
/-- S11. -/
theorem test_sknp_pressed :
    after { start 0xE0A1 0x0080 with v := regs [(0, 7)] } (fun t => t.pc == 0x202) = true := by decide
/-- S12. -/
theorem test_sknp : after { start 0xE0A1 with v := regs [(0, 7)] } (fun t => t.pc == 0x204) = true := by decide
/-- T1. -/
theorem test_ldVxDt : after { start 0xF107 with dt := 2 } (fun t => t.reg 1 == 2 && t.dt == 1) = true := by decide
/-- W1. -/
theorem test_ldVxK_waits :
    after { start 0xF20A with v := regs [(2, 0x33)], dt := 1, st := 1 }
      (fun t => t.pc == 0x200 && t.reg 2 == 0x33 && t.dt == 0 && t.st == 0 && t.outputs == [.soundEvent]) = true := by
  decide
/-- W2. -/
theorem test_ldVxK_lowest :
    after { start 0xF20A 0x0180 with v := regs [(2, 0x33)] } (fun t => t.pc == 0x202 && t.reg 2 == 7) = true := by
  decide
/-- T3. -/
theorem test_ldDtVx : after { start 0xF015 with v := regs [(0, 3)] } (fun t => t.dt == 2 && t.st == 0) = true := by
  decide
/-- T6. -/
theorem test_ldStVx_event :
    after { start 0xF518 with v := regs [(5, 1)] } (fun t => t.st == 0 && t.outputs == [.soundEvent]) = true := by
  decide
/-- T7. -/
theorem test_ldStVx_no_event :
    after { start 0xF518 with st := 1 } (fun t => t.st == 0 && t.outputs == []) = true := by decide
/-- M2. -/
theorem test_addI :
    after { start 0xF21E with i := 0x0FFE, v := regs [(2, 5), (15, 0x55)] }
      (fun t => t.i == 0x1003 && t.reg vF == 0x55) = true := by decide
/-- M3. -/
theorem test_addI_wraps :
    after { start 0xF21E with i := 0xFFFF, v := regs [(2, 1)] } (fun t => t.i == 0 && t.reg vF == 0) = true := by decide
/-- M5. -/
theorem test_ldF_not_masked :
    after { start 0xF429 with v := regs [(4, 0xFF)] } (fun t => t.i == 0x04FB) = true := by decide
/-- M6, the source's own example. -/
theorem test_ldB :
    after { start 0xF033 with v := regs [(0, 157)], i := 0x300 }
      (fun t => t.mem.readBytes 0x300 4 == [1, 5, 7, 0] && t.i == 0x300) = true := by decide
/-- M8. -/
theorem test_ldB_past_the_end :
    faultsWith { start 0xF033 with v := regs [(0, 255)], i := 4094 } ⟨.memOor, 0x200, some 0xF033, 4096⟩ = true := by
  decide
/-- M10. -/
theorem test_stRegs :
    after { start 0xF255 with v := regs [(0, 1), (1, 5), (2, 7), (3, 9)], i := 0x400 }
      (fun t => t.mem.readBytes 0x400 4 == [1, 5, 7, 0] && t.i == 0x403) = true := by decide
/-- M17: the font range is writable, and a byte equal to its reset contents is not listed. -/
theorem test_stRegs_font :
    after { start 0xF055 with v := regs [(0, 0xAA)] }
      (fun t => t.mem.readBytes 0 2 == [0xAA, 0x90] && t.i == 1) = true := by decide
/-- M13. -/
theorem test_ldRegs :
    after { start 0xF265 with v := regs [(3, 0x77)], i := 0x300, mem := [(0x200, 0xF2), (0x201, 0x65)] ++ [(0x300, 1), (0x301, 5), (0x302, 7), (0x303, 9)] }
      (fun t => t.v == regs [(0, 1), (1, 5), (2, 7), (3, 0x77)] && t.i == 0x303) = true := by decide
/-- M15. -/
theorem test_ldRegs_past_the_end :
    faultsWith { start 0xF065 with i := 4096 } ⟨.memOor, 0x200, some 0xF065, 4096⟩ = true := by decide

/-! ## The cycle, the fetch, reset -/

/-- "Unrecognized words and fetch": the word is reported, then the sound event. -/
theorem test_unrecognized :
    after { start 0x5121 with dt := 3, st := 1, v := regs [(15, 0x55)] }
      (fun t => t.pc == 0x202 && t.dt == 2 && t.st == 0 && t.v == regs [(15, 0x55)] &&
        t.outputs == [.unknownOpcode 0x200 0x5121, .soundEvent]) = true := by decide
/-- X3: the fetch faults at 4095. -/
theorem test_fetch_past_the_end :
    faultsWith { start 0x00E0 with pc := 4095, dt := 5 } ⟨.fetchOor, 0x0FFF, none, 4095⟩ = true := by decide
/-- X4: an odd `PC` fetches. -/
theorem test_fetch_odd :
    after { start 0x00E0 with pc := 0x201, mem := [(0x201, 0x6A), (0x202, 0x55)] }
      (fun t => t.reg 0xA == 0x55 && t.pc == 0x203) = true := by decide
/-- B4: three bytes loaded. -/
theorem test_load :
    (State.reset.load [0x60, 0x11, 0x12]).mem.readBytes 0x200 4 = [0x60, 0x11, 0x12, 0x00] := by decide
/-- The host's session (70_reset_and_hazards.md R183): keys pressed between cycles reach the next one (W2). -/
def keySession : Except MoveRefusal Session :=
  (⟨start 0xF20A, .started, 0⟩ : Session).moves [.setPressed 8 true, .setPressed 7 true, .cycle 0 false]

theorem test_session_keys : (keySession.map fun h => h.core.pc == 0x202 && h.core.reg 2 == 7) = .ok true := by decide
/-- R183, U14: no second load, and none after a cycle. -/
theorem test_session_second_load_refused :
    ((⟨State.reset, .fresh, 0⟩ : Session).moves [.load [0x12, 0x00], .load [0x60, 0x11]]).map (·.phase) =
      .error .loadOutOfTurn ∧
    ((⟨State.reset, .fresh, 0⟩ : Session).moves [.cycle 0 false, .load [0x12, 0x00]]).map (·.phase) =
      .error .loadOutOfTurn := by decide
/-- Writing a byte's reset contents leaves nothing listed. -/
theorem test_write_canonical : (Memory.write (Memory.write [] 0x300 7) 0x300 0) = [] := by decide

/-! ## Witnesses: the hypotheses of each obligation that has any, met together, at the ends of their ranges -/

theorem witness_DecodeInvertsEncode : (Instr.drw 15 15 15).wf = true := by decide

theorem witness_EncodeInvertsDecode : decodeWord 0xD12F#16 = .ok (.drw 1 2 15) := by decide

theorem witness_DecoderFollowsOpcodeMap :
    ∃ r ∈ opcodeMap, r.selects 0x8F06#16 ∧ decodeWord 0x8F06#16 = .ok (.shr 15 0) ∧ ¬ r.selects 0x8F08#16 :=
  ⟨⟨0x8006#16, 0xF00F#16, "SHR"⟩, by decide, rfl, by decide, fun h => absurd h (by decide : ¬ 0x8F08#16 &&& 0xF00F#16 = 0x8006#16)⟩

theorem witness_OpcodeMapRowsAreDisjoint : ∃ r ∈ opcodeMap, ∃ r' ∈ opcodeMap, r.selects 0xFF65#16 ∧ r'.selects 0xFF65#16 :=
  ⟨⟨0xF065#16, 0xF0FF#16, "LD_regs"⟩, by decide, ⟨0xF065#16, 0xF0FF#16, "LD_regs"⟩, by decide, rfl, rfl⟩

/-- The last address an instruction is fetched from. -/
def atTop (w : Word) : State := { State.reset with pc := 4094, mem := (State.reset.mem.writeBytes 4094 (bytesOfWord w)) }

/-- Both clauses: a cycle that completes, and one that faults. -/
theorem witness_StepRunsTheDecodedInstruction :
    (atTop 0x6011).fault = none ∧ (atTop 0x6011).pc.toNat ≤ 4094 ∧
    decodeWord (atTop 0x6011).wordAtPc = .ok (.ldImm 0 0x11) ∧
    (∃ t, exec (.ldImm 0 0x11) (atTop 0x6011) = .next t ∧ t.fault = none) ∧
    decodeWord (atTop 0x00EE).wordAtPc = .ok .ret ∧
    (∃ t, exec .ret (atTop 0x00EE) = .next t ∧ t.fault ≠ none) :=
  ⟨rfl, by decide, by decide, ⟨_, rfl, rfl⟩, by decide, ⟨_, rfl, by decide⟩⟩

theorem witness_UnrecognizedWordIsReportedAndSkipped :
    (atTop 0x5121).fault = none ∧ (atTop 0x5121).pc.toNat ≤ 4094 ∧ (atTop 0x5121).wordAtPc = 0x5121 ∧
    decodeWord 0x5121 = .error (.unrecognized 0x5121) :=
  ⟨rfl, by decide, by decide, by decide⟩

theorem witness_FetchOutOfRangeLatchesFault :
    ({ atTop 0x6011 with pc := 4095 } : State).fault = none ∧ 4094 < ({ atTop 0x6011 with pc := 4095 } : State).pc.toNat :=
  ⟨rfl, by decide⟩

/-- A state in which an underflow is latched. -/
def underflowed : State := { start 0x00EE with fault := some ⟨.stackUnderflow, 0x200, some 0x00EE, 0⟩ }

theorem witness_FaultedCoreTakesNoStep : underflowed.fault = some ⟨.stackUnderflow, 0x200, some 0x00EE, 0⟩ := rfl

theorem witness_CycleEmitsAtMostTwoEvents :
    step (start 0x00EE) = .next underflowed ∧ underflowed.fault ≠ none ∧
    (∃ t, exec .cls (start 0x00E0) = .next t ∧ t.outputs ≠ (start 0x00E0).outputs) :=
  ⟨rfl, by decide, ⟨_, rfl, by decide⟩⟩

/-- Both clauses, at the ends of the table's ranges. -/
theorem witness_ExecuteFaultsFollowTheTable :
    (∃ t, exec (.ldB 0) { start 0xF033 with i := 4093 } = .next t ∧
      faultOf (.ldB 0) { start 0xF033 with i := 4093 } = none) ∧
    (∃ t, exec (.ldB 0) { start 0xF033 with i := 4094 } = .next t ∧
      faultOf (.ldB 0) { start 0xF033 with i := 4094 } = some ⟨.memOor, 4096⟩) ∧
    faultOf (.drw 0 0 15) { start 0xD00F with i := 4081 } = none ∧
    faultOf (.drw 0 0 15) { start 0xD00F with i := 4082 } = some ⟨.memOor, 4096⟩ ∧
    faultOf (.drw 0 0 0) { start 0xD000 with i := 0xFFFF } = none :=
  ⟨⟨_, rfl, by decide⟩, ⟨_, rfl, by decide⟩, by decide, by decide, by decide⟩

theorem witness_CycleLatchesTheFaultOfItsState :
    (start 0x00EE).fault = none ∧ faultRecordOf (start 0x00EE) = some ⟨.stackUnderflow, 0x200, some 0x00EE, 0⟩ ∧
    faultRecordOf (start 0x00E0) = none :=
  ⟨rfl, by decide, by decide⟩

/-- A state that meets the invariant and takes a step, and one with an entry on the stack. -/
theorem witness_StepKeepsInvariant :
    ({ start 0x00EE with sp := 1, stack := State.reset.stack.set 0 4096 } : State).Inv ∧
    ∃ t, step { start 0x00EE with sp := 1, stack := State.reset.stack.set 0 4096 } = .next t ∧ t.pc = 4096 :=
  ⟨⟨State.load_wf _ _ State.reset_wf, by decide, by decide, fun r h => by cases h⟩, ⟨_, rfl, by decide⟩⟩

theorem witness_PcMovesOnlyAsListed :
    (∃ t, exec .ret (start 0x00EE) = .next t ∧ faultOf .ret (start 0x00EE) ≠ none) ∧
    (∃ t, exec (.jpV0 0xFFF) { start 0xBFFF with v := regs [(0, 0xFF)] } = .next t ∧
      faultOf (.jpV0 0xFFF) { start 0xBFFF with v := regs [(0, 0xFF)] } = none ∧ t.pc = 0x10FE) :=
  ⟨⟨_, rfl, by decide⟩, ⟨_, rfl, rfl, by decide⟩⟩

theorem witness_OnlyCallAndReturnMoveTheStack :
    ∃ t, exec (.call 0xABC) (start 0x2ABC) = .next t ∧ t.stack ≠ (start 0x2ABC).stack ∧ t.sp ≠ (start 0x2ABC).sp :=
  ⟨_, rfl, by decide, by decide⟩

theorem witness_OnlyListedInstructionsWriteIndex :
    ∃ t, exec (.ldI 0x2F0) (start 0xA2F0) = .next t ∧ t.i ≠ (start 0xA2F0).i :=
  ⟨_, rfl, by decide⟩

theorem witness_OnlyStoresWriteMemory :
    ∃ t, exec (.stRegs 0) { start 0xF055 with v := regs [(0, 0xAA)] } = .next t ∧ t.mem ≠ (start 0xF055).mem :=
  ⟨_, rfl, by decide⟩

theorem witness_OnlyTimerInstructionsWriteTimers :
    (∃ t, exec (.ldDtVx 0) { start 0xF015 with v := regs [(0, 3)] } = .next t ∧ t.dt ≠ (start 0xF015).dt) ∧
    (∃ t, exec (.ldStVx 0) { start 0xF018 with v := regs [(0, 3)] } = .next t ∧ t.st ≠ (start 0xF018).st) :=
  ⟨⟨_, rfl, by decide⟩, ⟨_, rfl, by decide⟩⟩

theorem witness_FlagRegisterWriters :
    (∃ t, exec (.shr 0 1) (start 0x8016) = .next t ∧ faultOf (.shr 0 1) (start 0x8016) = none) ∧ (0 : Reg) ≠ vF :=
  ⟨⟨_, rfl, rfl⟩, by decide⟩

theorem witness_SoundTimerIsNeverRead :
    (∃ t, exec (.ldVxDt 1) { start 0xF107 with dt := 2, st := 9 } = .next t) ∧
    (∃ t, exec (.ldStVx 1) { start 0xF118 with st := 9 } = .next t) :=
  ⟨⟨_, rfl⟩, ⟨_, rfl⟩⟩

/-- Two inputs that differ in everything but what the instruction consults. -/
theorem witness_EnvironmentReachesOnlyItsConsumers :
    ∃ (e e' : EnvInputs) (t : State), exec (.rnd 3 0x0F) { start 0xC30F with inputs := [e] } = .next t ∧
      e'.rand = e.rand ∧ e'.keys ≠ e.keys ∧ e'.collision ≠ e.collision :=
  ⟨⟨0, 0xA7, false⟩, ⟨1, 0xA7, true⟩, _, rfl, by decide, by decide, by decide⟩

/-- The three clauses, at the ends of their ranges. -/
theorem witness_DrawSendsTheSpriteAtIndex :
    (0 = 0 ∨ ({ start 0xD010 with i := 0xFFFF } : State).i.toNat + 0 ≤ 4096) ∧
    ({ start 0xD01F with i := 4081 } : State).i.toNat + 15 ≤ 4096 ∧
    (start 0xD01F 0 0 true).inputs = [⟨0, 0, true⟩] ∧
    0 < 15 ∧ 4096 < ({ start 0xD01F with i := 4082 } : State).i.toNat + 15 :=
  ⟨.inl rfl, by decide, rfl, by decide, by decide⟩

theorem witness_CallPushesReturnAddress :
    ({ start 0x2ABC with sp := 14 } : State).sp.toNat < 15 ∧ ({ start 0x2ABC with sp := 15 } : State).sp.toNat = 15 :=
  ⟨by decide, by decide⟩

theorem witness_ReturnPopsIntoPc :
    0 < ({ start 0x00EE with sp := 1 } : State).sp.toNat ∧ 0 + 1 = ({ start 0x00EE with sp := 1 } : State).sp.toNat ∧
    14 + 1 = ({ start 0x00EE with sp := 15 } : State).sp.toNat ∧ (start 0x00EE).sp.toNat = 0 :=
  ⟨by decide, by decide, by decide, by decide⟩

theorem witness_CallThenReturnComesBack : ({ start 0x2ABC with sp := 14 } : State).sp.toNat < 15 := by decide

theorem witness_KeySkips :
    (({ start 0xE09E with v := regs [(0, 15)] } : State).reg 0).toNat ≤ 15 ∧
    15 < (({ start 0xE09E with v := regs [(0, 16)] } : State).reg 0).toNat :=
  ⟨by decide, by decide⟩

/-- The clause on the result, of 8xy4, 8xy5, 8xy7, and the clause on the flag, of 8xy6 and 8xyE: `x` is not 15. -/
theorem witness_AddRegistersReportsCarry : (14 : Reg) ≠ vF := by decide
theorem witness_SubtractionsReportNotBorrow : (14 : Reg) ≠ vF := by decide
theorem witness_ShiftsKeepTheResultLast : (14 : Reg) ≠ vF := by decide

theorem witness_DecimalDigitsAreStored :
    ({ start 0xF033 with i := 4093 } : State).i.toNat + 2 < 4096 ∧
    4096 ≤ ({ start 0xF033 with i := 4094 } : State).i.toNat + 2 :=
  ⟨by decide, by decide⟩

theorem witness_StoreBlockWritesRegisters :
    ({ start 0xFF55 with i := 4080 } : State).i.toNat + (15 : Reg).toNat < 4096 ∧ (15 : Reg).toNat ≤ (15 : Reg).toNat ∧
    4096 ≤ ({ start 0xFF55 with i := 4081 } : State).i.toNat + (15 : Reg).toNat :=
  ⟨by decide, by decide, by decide⟩

theorem witness_LoadBlockReadsRegisters :
    ({ start 0xF065 with i := 4095 } : State).i.toNat + (0 : Reg).toNat < 4096 ∧ (0 : Reg).toNat ≤ (0 : Reg).toNat ∧
    4096 ≤ ({ start 0xF065 with i := 4096 } : State).i.toNat + (0 : Reg).toNat :=
  ⟨by decide, by decide, by decide⟩

theorem witness_StoredBlockLoadsBack :
    ({ start 0xFF55 with i := 4080 } : State).i.toNat + (15 : Reg).toNat < 4096 ∧ (15 : Reg).toNat ≤ (15 : Reg).toNat :=
  ⟨by decide, by decide⟩

theorem witness_RandomByteIsMasked : (start 0xC30F 0 0xA7).inputs = [⟨0, 0xA7, false⟩] := rfl

theorem witness_DelayTimerTransfers : (start 0xF107).fault = none := rfl
theorem witness_SoundTimerIsSetAndCounted : (start 0xF518).fault = none := rfl

/-- Both clauses: no key, and only the highest. -/
theorem witness_KeyWaitTakesTheLowestKey :
    (start 0xF20A).keys = 0 ∧ 15 < 16 ∧ (start 0xF20A 0x8000).keys.getLsbD 15 = true ∧
    ∀ j, j < 15 → (start 0xF20A 0x8000).keys.getLsbD j = false :=
  ⟨rfl, by decide, by decide, by decide⟩

/-- Two idle cycles, then keys 7 and 8. -/
theorem witness_KeyWaitRepeatsUntilAKeyIsPressed :
    ∃ (s : State) (idle rest : List EnvInputs) (e : EnvInputs),
      s.fault = none ∧ s.pc.toNat ≤ 4094 ∧ decodeWord s.wordAtPc = .ok (.ldVxK 2) ∧
      s.inputs = idle ++ e :: rest ∧ idle.length = 2 ∧ (∀ q ∈ idle, q.keys = 0) ∧
      7 < 16 ∧ e.keys.getLsbD 7 = true ∧ ∀ j, j < 7 → e.keys.getLsbD j = false :=
  ⟨{ start 0xF20A with inputs := [⟨0, 0, false⟩, ⟨0, 1, true⟩, ⟨0x0180, 0, false⟩] },
    [⟨0, 0, false⟩, ⟨0, 1, true⟩], [], ⟨0x0180, 0, false⟩,
    rfl, by decide, by decide, rfl, rfl, by decide, by decide, by decide, by decide⟩

theorem witness_CanonicalMemoriesAreEqualByBytes :
    Memory.wf [(0, 0xAA), (4095, 1)] ∧ Memory.wf (Memory.write [(0, 0xAA)] 4095 1) ∧
    ∀ a, a < 4096 → Memory.read [(0, 0xAA), (4095, 1)] a = Memory.read (Memory.write [(0, 0xAA)] 4095 1) a :=
  ⟨by decide, by decide, fun _ _ => rfl⟩

theorem witness_NextFetchSeesTheStore :
    ({ start 0xF155 with i := 0x202 } : State).i.toNat + (1 : Reg).toNat < 4096 ∧
    (0 : Reg).toNat + 1 ≤ (1 : Reg).toNat ∧
    ({ start 0xF155 with i := 0x202 } : State).i.toNat + (0 : Reg).toNat = (start 0xF155).pc.toNat + 2 :=
  ⟨by decide, by decide, by decide⟩

theorem witness_ResetLeavesTheListedValues :
    ∃ font : Vector Byte 80, font.toList = Config.defaultFont ∧ 79 < 80 ∧ 15 < 16 :=
  ⟨⟨Config.defaultFont.toArray, rfl⟩, rfl, by decide, by decide⟩

/-- An image one byte too long. -/
def longImage : List Byte := List.replicate 3585 1

theorem longImage_length : longImage.length = 3585 := List.length_replicate

/-- The last byte that is copied. -/
theorem witness_LoadCopiesTheImage : 3583 < longImage.length ∧ 3583 < 3584 := by
  rw [longImage_length]; decide

/-- The ends of the four ranges of addresses. -/
theorem witness_LaunchStateContents :
    79 < 80 ∧ 80 ≤ 80 ∧ 511 < 0x200 ∧ 3583 < longImage.length ∧
    0x200 + min ([0x60, 0x11] : List Byte).length 3584 ≤ 0x202 ∧ 0x202 < 4096 := by
  rw [longImage_length]; decide

/-- The clauses on the host's moves: a phase with a reset, a phase with no load, and a move that stays `fresh`. -/
theorem witness_LaunchStateContents_moves :
    HostPhase.started ≠ .stopped ∧ HostPhase.started ≠ .fresh ∧
    (⟨State.reset, .fresh, 0⟩ : Session).move (.setPressed 15 true) = .ok ⟨State.reset, .fresh, 0x8000⟩ :=
  ⟨by decide, by decide, rfl⟩

theorem witness_SelfJumpOnlyCountsTheTimers : (start 0x1200).fault = none ∧ (start 0x1200).atSelfJump :=
  ⟨rfl, by decide, 0x200, by decide, by decide⟩

end Sys2Proof.Tests
end

section
/-! The decode fields as the masks and shifts of 30_encoding.md R51, and the fields that overlap. -/

namespace Sys2Proof

/-! ## Masked and shifted numbers -/

/-- Masking `k` bits in place and shifting them down by `m` is the quotient and remainder that the laws of the
fields speak of. -/
theorem and_mask_shiftRight (a m k : Nat) : (a &&& (2 ^ k - 1) <<< m) >>> m = a / 2 ^ m % 2 ^ k := by
  rw [Nat.shiftRight_and_distrib, Nat.shiftLeft_shiftRight, Nat.and_two_pow_sub_one_eq_mod,
    Nat.shiftRight_eq_div_pow]

theorem Field.toNat_op_eq_shift (w : Word) : (Field.op w).toNat = w.toNat >>> 12 :=
  (Field.toNat_op w).trans (Nat.shiftRight_eq_div_pow w.toNat 12).symm

theorem Field.toNat_x_eq_mask_shift (w : Word) : (Field.x w).toNat = (w.toNat &&& 0x0F00) >>> 8 :=
  (Field.toNat_x w).trans (and_mask_shiftRight w.toNat 8 4).symm

theorem Field.toNat_y_eq_mask_shift (w : Word) : (Field.y w).toNat = (w.toNat &&& 0x00F0) >>> 4 :=
  (Field.toNat_y w).trans (and_mask_shiftRight w.toNat 4 4).symm

theorem Field.toNat_n_eq_mask (w : Word) : (Field.n w).toNat = w.toNat &&& 0x000F :=
  (Field.toNat_n w).trans (Nat.and_two_pow_sub_one_eq_mod w.toNat 4).symm

theorem Field.toNat_nn_eq_mask (w : Word) : (Field.nn w).toNat = w.toNat &&& 0x00FF :=
  (Field.toNat_nn w).trans (Nat.and_two_pow_sub_one_eq_mod w.toNat 8).symm

theorem Field.toNat_nnn_eq_mask (w : Word) : (Field.nnn w).toNat = w.toNat &&& 0x0FFF :=
  (Field.toNat_nnn w).trans (Nat.and_two_pow_sub_one_eq_mod w.toNat 12).symm

/-! ## Overlapping fields -/

theorem Field.nn_eq_append (w : Word) : Field.nn w = Field.y w ++ Field.n w := by
  apply BitVec.eq_of_toNat_eq
  rw [toNat_append_eq, Field.toNat_nn, Field.toNat_y, Field.toNat_n]; omega

theorem Field.nnn_eq_append (w : Word) : Field.nnn w = Field.x w ++ Field.y w ++ Field.n w := by
  apply BitVec.eq_of_toNat_eq
  rw [toNat_append_eq, toNat_append_eq, Field.toNat_nnn, Field.toNat_x, Field.toNat_y, Field.toNat_n]; omega

end Sys2Proof

open Sys2Proof in
/-- Settles O6, field by field: each law of `Sys2Proof/Laws/Decode.lean` gives the quotient and remainder that the
mask and shift of 30_encoding.md R51 compute. -/
theorem opcodeFieldsAreMasksAndShifts : Obligations.OpcodeFieldsAreMasksAndShifts := fun w =>
  ⟨Field.toNat_op_eq_shift w, Field.toNat_x_eq_mask_shift w, Field.toNat_y_eq_mask_shift w,
    Field.toNat_n_eq_mask w, Field.toNat_nn_eq_mask w, Field.toNat_nnn_eq_mask w,
    Field.nnn_eq_append w, Field.nn_eq_append w⟩
end

section
/-! What the steps of the display instructions leave unchanged (41_display.md), and 00E0 itself. -/

namespace Sys2Proof.Machine

variable {s t : State} {f : Footprint}

/-- `PC` is in no footprint, so moving to the next instruction keeps every frame. -/
theorem Unchanged.advance (h : Unchanged f s t) : Unchanged f s t.advance := h

theorem unchanged_emit (s : State) (e : Event) : Unchanged { outputs := true } s (s.emit e) := by
  simp [Unchanged]

theorem exec_cls (s : State) : exec .cls s = .next (s.emit .displayClear).advance := rfl

end Sys2Proof.Machine

open Sys2Proof.Machine in
/-- Settles O28: the next state of 00E0 is the emitted request and then the step of `PC`, and each rule gives its
part of the frame (41_display.md R80). -/
theorem clearScreenEmitsItsRequest : Obligations.ClearScreenEmitsItsRequest := fun s =>
  ⟨(s.emit .displayClear).advance, exec_cls s, State.advance_pc _, State.emit_outputs s _,
    (unchanged_emit s .displayClear).advance⟩
end

section
/-! The two jumps, 1nnn and Bnnn: their targets as natural numbers, and that they write `PC` and nothing else
(42_control_flow.md R86, R88). -/

namespace Sys2Proof.Machine

variable {s t : State} {f : Footprint}

/-! ## Frames -/

theorem Unchanged.refl (f : Footprint) (s : State) : Unchanged f s s := by
  simp [Unchanged]

/-- `PC` is in no footprint, so setting it keeps every frame. -/
theorem Unchanged.setPc (h : Unchanged f s t) (a : Word) : Unchanged f s (t.setPc a) := h

/-! ## Jump targets -/

theorem toNat_absAddr (nnn : Addr12) : (absAddr nnn).toNat = nnn.toNat :=
  BitVec.toNat_setWidth_of_le (by decide)

/-- The sum of a 12-bit address and a byte is at most 0x10FE, so its 16 bits never wrap (42_control_flow.md R88). -/
theorem State.toNat_indexedTarget (s : State) (nnn : Addr12) :
    (s.indexedTarget nnn).toNat = nnn.toNat + (s.reg 0#4).toNat := by
  have hreg : ((s.reg 0#4).setWidth 16).toNat = (s.reg 0#4).toNat := BitVec.toNat_setWidth_of_le (by decide)
  have hnnn := nnn.isLt
  have hbyte := (s.reg 0#4).isLt
  rw [State.indexedTarget, BitVec.toNat_add_of_lt (by rw [toNat_absAddr, hreg]; omega), toNat_absAddr, hreg]

/-! ## The instructions -/

theorem exec_jp (nnn : Addr12) (s : State) : exec (.jp nnn) s = .next (s.setPc (absAddr nnn)) := rfl

theorem exec_jpV0 (nnn : Addr12) (s : State) : exec (.jpV0 nnn) s = .next (s.setPc (s.indexedTarget nnn)) := rfl

end Sys2Proof.Machine

open Sys2Proof.Machine in
/-- Settles O30: 1nnn only sets `PC`, to the zero-extended address (42_control_flow.md R86). -/
theorem jumpSetsPc : Obligations.JumpSetsPc := fun nnn s =>
  ⟨s.setPc (absAddr nnn), exec_jp nnn s, toNat_absAddr nnn, (Unchanged.refl {} s).setPc _⟩

open Sys2Proof.Machine in
/-- Settles O31: Bnnn only sets `PC`, to a 16-bit sum that does not wrap (42_control_flow.md R88). -/
theorem indexedJumpAddsRegisterZero : Obligations.IndexedJumpAddsRegisterZero := fun nnn s =>
  ⟨s.setPc (s.indexedTarget nnn), exec_jpV0 nnn s, s.toNat_indexedTarget nnn, (Unchanged.refl {} s).setPc _⟩
end

section
/-! The conditional skips on a comparison of two bytes, 3xnn, 4xnn, 5xy0 and 9xy0: where `PC` goes, said of the
bytes' values, and that nothing else is written (43_skips.md R90). -/

namespace Sys2Proof.Machine

variable {s t : State} {f : Footprint}

/-! ## `skip_if` -/

/-- A skip, taken or not, only moves `PC`, which is in no footprint (43_skips.md R90). -/
theorem Unchanged.skipIf (h : Unchanged f s t) (c : Bool) : Unchanged f s (t.skipIf c) := h.setPc _

theorem State.pc_skipIf_eq (s : State) (a b : Byte) :
    (s.skipIf (decide (a = b))).pc = if a.toNat = b.toNat then s.pc + 4 else s.pc + 2 := by
  simp only [State.skipIf_pc, decide_eq_true_eq, BitVec.toNat_inj]

theorem State.pc_skipIf_ne (s : State) (a b : Byte) :
    (s.skipIf (decide (a ≠ b))).pc = if a.toNat = b.toNat then s.pc + 2 else s.pc + 4 := by
  simp only [State.skipIf_pc, decide_eq_true_eq, ne_eq, ite_not, BitVec.toNat_inj]

/-! ## The instructions -/

theorem exec_seImm (x : Reg) (nn : Byte) (s : State) :
    exec (.seImm x nn) s = .next (s.skipIf (decide (s.reg x = nn))) := rfl

theorem exec_sneImm (x : Reg) (nn : Byte) (s : State) :
    exec (.sneImm x nn) s = .next (s.skipIf (decide (s.reg x ≠ nn))) := rfl

theorem exec_seReg (x y : Reg) (s : State) :
    exec (.seReg x y) s = .next (s.skipIf (decide (s.reg x = s.reg y))) := rfl

theorem exec_sneReg (x y : Reg) (s : State) :
    exec (.sneReg x y) s = .next (s.skipIf (decide (s.reg x ≠ s.reg y))) := rfl

end Sys2Proof.Machine

open Sys2Proof.Machine in
/-- Settles O35: 3xnn is a skip on `V[x] = nn` and 4xnn one on `V[x] ≠ nn`, and a skip writes `PC` alone
(43_skips.md R91, R92). -/
theorem immediateSkips : Obligations.ImmediateSkips := fun x nn s =>
  ⟨⟨_, exec_seImm x nn s, s.pc_skipIf_eq (s.reg x) nn, (Unchanged.refl {} s).skipIf _⟩,
    ⟨_, exec_sneImm x nn s, s.pc_skipIf_ne (s.reg x) nn, (Unchanged.refl {} s).skipIf _⟩⟩

open Sys2Proof.Machine in
/-- Settles O36: 5xy0 is a skip on `V[x] = V[y]` and 9xy0 one on `V[x] ≠ V[y]`, and a skip writes `PC` alone
(43_skips.md R93, R94). -/
theorem registerSkips : Obligations.RegisterSkips := fun x y s =>
  ⟨⟨_, exec_seReg x y s, s.pc_skipIf_eq (s.reg x) (s.reg y), (Unchanged.refl {} s).skipIf _⟩,
    ⟨_, exec_sneReg x y s, s.pc_skipIf_ne (s.reg x) (s.reg y), (Unchanged.refl {} s).skipIf _⟩⟩
end

section
/-! Register load, arithmetic and logic: the bytes that 6xnn, 7xnn, 8xy0 to 8xy5 and 8xy7 compute, as natural numbers,
and that each writes its destination, `VF` where it has a flag, and nothing else (44_load_arith.md). -/

namespace Sys2Proof.Machine

variable {s t : State} {f : Footprint}

/-! ## Frames -/

theorem Unchanged.setReg (h : Unchanged f s t) {x : Reg} (hx : x ∈ f.regs) (b : Byte) :
    Unchanged f s (t.setReg x b) := by
  obtain ⟨hregs, hrest⟩ := h
  refine ⟨fun r hr => ?_, hrest⟩
  have hne : r ≠ x := fun e => hr (e ▸ hx)
  rw [State.reg_setReg, if_neg hne, hregs r hr]

theorem unchanged_setReg_advance (s : State) (x : Reg) (b : Byte) :
    Unchanged { regs := [x] } s (s.setReg x b).advance :=
  ((Unchanged.refl _ s).setReg (List.mem_singleton_self x) b).advance

theorem unchanged_resultThenFlag_advance (s : State) (x : Reg) (b c : Byte) :
    Unchanged { regs := [x, vF] } s (s.resultThenFlag x b c).advance :=
  (((Unchanged.refl _ s).setReg List.mem_cons_self b).setReg
    (List.mem_cons_of_mem x (List.mem_singleton_self vF)) c).advance

/-! ## Reading back the destination and the flag -/

theorem State.reg_setReg_advance_self (s : State) (x : Reg) (b : Byte) : (s.setReg x b).advance.reg x = b := by
  rw [State.reg_advance, State.reg_setReg, if_pos rfl]

theorem State.reg_resultThenFlag_advance_result (s : State) {x : Reg} (hx : x ≠ vF) (b c : Byte) :
    (s.resultThenFlag x b c).advance.reg x = b := by
  rw [State.reg_advance, State.reg_resultThenFlag, if_neg hx, if_pos rfl]

/-- The flag is the later write, so it remains for every `x`, 15 included (44_load_arith.md R100). -/
theorem State.reg_resultThenFlag_advance_flag (s : State) (x : Reg) (b c : Byte) :
    (s.resultThenFlag x b c).advance.reg vF = c := by
  rw [State.reg_advance, State.reg_resultThenFlag, if_pos rfl]

/-! ## The bytes computed -/

theorem toNat_wrapSum (a b : Byte) : (wrapSum a b).toNat = (a.toNat + b.toNat) % 256 :=
  BitVec.toNat_ofNat _ 8

/-- The mathematical `mod` of a difference of two bytes, on natural numbers: 256 is added first, so that the
subtraction does not stop at 0 (00_scope.md R6). -/
theorem toNat_wrapDiff (a b : Byte) : (wrapDiff a b).toNat = (a.toNat + 256 - b.toNat) % 256 := by
  have hb := b.isLt
  rw [wrapDiff, BitVec.toNat_ofInt]
  omega

theorem toNat_flagByte (c : Bool) : (flagByte c).toNat = if c then 1 else 0 := by
  cases c <;> rfl

theorem toNat_carryFlag (a b : Byte) :
    (carryFlag a b).toNat = if a.toNat + b.toNat > 255 then 1 else 0 := by
  simp only [carryFlag, toNat_flagByte, decide_eq_true_eq]

theorem toNat_notBorrowFlag (a b : Byte) :
    (notBorrowFlag a b).toNat = if b.toNat > a.toNat then 0 else 1 := by
  simp only [notBorrowFlag, toNat_flagByte, Bool.not_eq_true', decide_eq_false_iff_not, ite_not]

/-! ## The subtractions -/

/-- What 8xy5 and 8xy7 share: a state that receives the difference `a - b` and then its not-borrow flag
(44_load_arith.md R100, R108, R110). -/
theorem State.resultThenFlag_wrapDiff_spec (s : State) (x : Reg) (a b : Byte) :
    let t := (s.resultThenFlag x (wrapDiff a b) (notBorrowFlag a b)).advance
    t.pc = s.pc + 2 ∧ (x ≠ vF → (t.reg x).toNat = (a.toNat + 256 - b.toNat) % 256) ∧
      (t.reg vF).toNat = (if b.toNat > a.toNat then 0 else 1) ∧ Unchanged { regs := [x, vF] } s t := by
  refine ⟨State.advance_pc _, fun hx => ?_, ?_, unchanged_resultThenFlag_advance s x _ _⟩
  · rw [s.reg_resultThenFlag_advance_result hx, toNat_wrapDiff]
  · rw [State.reg_resultThenFlag_advance_flag, toNat_notBorrowFlag]

/-! ## The instructions -/

theorem exec_ldImm (x : Reg) (nn : Byte) (s : State) : exec (.ldImm x nn) s = .next (s.setReg x nn).advance := rfl

theorem exec_addImm (x : Reg) (nn : Byte) (s : State) :
    exec (.addImm x nn) s = .next (s.setReg x (wrapSum (s.reg x) nn)).advance := rfl

theorem exec_ldReg (x y : Reg) (s : State) : exec (.ldReg x y) s = .next (s.setReg x (s.reg y)).advance := rfl

theorem exec_or (x y : Reg) (s : State) : exec (.or x y) s = .next (s.setReg x (s.reg x ||| s.reg y)).advance := rfl

theorem exec_and (x y : Reg) (s : State) : exec (.and x y) s = .next (s.setReg x (s.reg x &&& s.reg y)).advance := rfl

theorem exec_xor (x y : Reg) (s : State) : exec (.xor x y) s = .next (s.setReg x (s.reg x ^^^ s.reg y)).advance := rfl

theorem exec_addReg (x y : Reg) (s : State) :
    exec (.addReg x y) s =
      .next (s.resultThenFlag x (wrapSum (s.reg x) (s.reg y)) (carryFlag (s.reg x) (s.reg y))).advance := rfl

theorem exec_sub (x y : Reg) (s : State) :
    exec (.sub x y) s =
      .next (s.resultThenFlag x (wrapDiff (s.reg x) (s.reg y)) (notBorrowFlag (s.reg x) (s.reg y))).advance := rfl

theorem exec_subn (x y : Reg) (s : State) :
    exec (.subn x y) s =
      .next (s.resultThenFlag x (wrapDiff (s.reg y) (s.reg x)) (notBorrowFlag (s.reg y) (s.reg x))).advance := rfl

end Sys2Proof.Machine

open Sys2Proof.Machine in
/-- Settles O38: both loads are one register write and then the step of `PC` (44_load_arith.md R101, R103). -/
theorem registerLoads : Obligations.RegisterLoads := fun x y nn s =>
  ⟨⟨_, exec_ldImm x nn s, State.advance_pc _, s.reg_setReg_advance_self x nn, unchanged_setReg_advance s x nn⟩,
    ⟨_, exec_ldReg x y s, State.advance_pc _, s.reg_setReg_advance_self x _, unchanged_setReg_advance s x _⟩⟩

open Sys2Proof.Machine in
/-- Settles O39: the one register written is the destination, with the sum narrowed to a byte
(44_load_arith.md R102). -/
theorem addImmediateWrapsWithoutFlag : Obligations.AddImmediateWrapsWithoutFlag := by
  intro x nn s
  refine ⟨_, exec_addImm x nn s, State.advance_pc _, ?_, unchanged_setReg_advance s x _⟩
  rw [State.reg_setReg_advance_self, toNat_wrapSum]

open Sys2Proof.Machine in
/-- Settles O40: the destination receives the bit vectors' or, and, exclusive or, whose bits are those of the
operands (44_load_arith.md R104, R105, R106). -/
theorem logicWorksBitwise : Obligations.LogicWorksBitwise := by
  intro x y s
  refine ⟨⟨_, exec_or x y s, State.advance_pc _, fun k => ?_, unchanged_setReg_advance s x _⟩,
    ⟨_, exec_and x y s, State.advance_pc _, fun k => ?_, unchanged_setReg_advance s x _⟩,
    ⟨_, exec_xor x y s, State.advance_pc _, fun k => ?_, unchanged_setReg_advance s x _⟩⟩
  · rw [State.reg_setReg_advance_self, BitVec.getLsbD_or]
  · rw [State.reg_setReg_advance_self, BitVec.getLsbD_and]
  · rw [State.reg_setReg_advance_self, BitVec.getLsbD_xor]

open Sys2Proof.Machine in
/-- Settles O41: the sum is written first and the carry last, both computed from the operands read before
(44_load_arith.md R100, R107). -/
theorem addRegistersReportsCarry : Obligations.AddRegistersReportsCarry := by
  intro x y s
  refine ⟨_, exec_addReg x y s, State.advance_pc _, fun hx => ?_, ?_, unchanged_resultThenFlag_advance s x _ _⟩
  · rw [s.reg_resultThenFlag_advance_result hx, toNat_wrapSum]
  · rw [State.reg_resultThenFlag_advance_flag, toNat_carryFlag]

open Sys2Proof.Machine in
/-- Settles O42: 8xy5 and 8xy7 are one difference with its flag, the operands taken in either order
(44_load_arith.md R108, R110). -/
theorem subtractionsReportNotBorrow : Obligations.SubtractionsReportNotBorrow := fun x y s =>
  ⟨⟨_, exec_sub x y s, s.resultThenFlag_wrapDiff_spec x (s.reg x) (s.reg y)⟩,
    ⟨_, exec_subn x y s, s.resultThenFlag_wrapDiff_spec x (s.reg y) (s.reg x)⟩⟩
end

section
/-! The two loads of `I`, Annn and Fx29: the addresses they load as natural numbers, and that they write `I` and
nothing else (45_index_memory.md R115, R117). -/

namespace Sys2Proof.Machine

variable {s t : State} {f : Footprint}

/-! ## Frames -/

theorem Unchanged.setI (h : Unchanged f s t) (hindex : f.index = true) (a : Word) : Unchanged f s (t.setI a) := by
  obtain ⟨hregs, -, hrest⟩ := h
  exact ⟨hregs, fun hkept => absurd hkept (ne_false_of_eq_true hindex), hrest⟩

theorem unchanged_setI_advance (s : State) (a : Word) : Unchanged { index := true } s (s.setI a).advance :=
  ((Unchanged.refl _ s).setI rfl a).advance

/-! ## The glyph address -/

/-- Five times a byte is at most 1275, so its 16 bits never wrap (45_index_memory.md R117). -/
theorem State.toNat_glyphAddr (s : State) (x : Reg) : (s.glyphAddr x).toNat = (s.reg x).toNat * 5 := by
  have hreg : ((s.reg x).setWidth 16).toNat = (s.reg x).toNat := BitVec.toNat_setWidth_of_le (by decide)
  have hfive : (5 : Word).toNat = 5 := rfl
  have hbyte := (s.reg x).isLt
  rw [State.glyphAddr, BitVec.toNat_mul_of_lt (by rw [hreg, hfive]; omega), hreg, hfive]

/-! ## The instructions -/

theorem exec_ldI (nnn : Addr12) (s : State) : exec (.ldI nnn) s = .next (s.setI (absAddr nnn)).advance := rfl

theorem exec_ldF (x : Reg) (s : State) : exec (.ldF x) s = .next (s.setI (s.glyphAddr x)).advance := rfl

end Sys2Proof.Machine

open Sys2Proof.Machine in
/-- Settles O44: both loads are one write of `I` and then the step of `PC`; Annn loads the zero-extended address,
Fx29 the glyph address of the whole byte (45_index_memory.md R115, R117). -/
theorem indexLoads : Obligations.IndexLoads := fun nnn x s =>
  ⟨⟨_, exec_ldI nnn s, State.advance_pc _, toNat_absAddr nnn, unchanged_setI_advance s _⟩,
    ⟨_, exec_ldF x s, State.advance_pc _, s.toNat_glyphAddr x, unchanged_setI_advance s _⟩⟩
end

section
/-! The two transfers of `DT`, Fx07 and Fx15: that they write `V[x]` or `DT` and nothing else, and the value the
countdown of their own cycle leaves in `DT` (46_random_timers_keywait.md R126, R128). -/

namespace Sys2Proof.Machine

variable {s t : State} {f : Footprint}

/-! ## Frames -/

theorem Unchanged.setDt (h : Unchanged f s t) (hdelay : f.delay = true) (b : Byte) : Unchanged f s (t.setDt b) := by
  obtain ⟨hregs, hindex, hstack, -, hrest⟩ := h
  exact ⟨hregs, hindex, hstack, fun hkept => absurd hkept (ne_false_of_eq_true hdelay), hrest⟩

theorem unchanged_setDt_advance (s : State) (b : Byte) : Unchanged { delay := true } s (s.setDt b).advance :=
  ((Unchanged.refl _ s).setDt rfl b).advance

/-! ## The countdown at the end of the cycle -/

/-- A cycle that did not fault leaves `DT` one lower, or at 0 (40_cycle.md R69, R70). -/
theorem State.toNat_dt_finishCycle (t : State) (hrunning : t.fault = none) :
    t.finishCycle.dt.toNat = t.dt.toNat - 1 := by
  rw [State.finishCycle_running t hrunning, State.nextInputs_dt, State.countdown_dt, toNat_countDown]

/-! ## The instructions -/

theorem exec_ldVxDt (x : Reg) (s : State) : exec (.ldVxDt x) s = .next (s.setReg x s.dt).advance := rfl

theorem exec_ldDtVx (x : Reg) (s : State) : exec (.ldDtVx x) s = .next (s.setDt (s.reg x)).advance := rfl

end Sys2Proof.Machine

open Sys2Proof.Machine in
/-- Settles O51: both transfers come before the countdown of their cycle. Fx07 keeps `DT`, so that countdown acts on
the value read; Fx15 has already written `DT`, so it acts on the value written (46_random_timers_keywait.md R126,
R128). -/
theorem delayTimerTransfers : Obligations.DelayTimerTransfers := by
  intro x s hrunning
  constructor
  · have hread : (s.setReg x s.dt).advance.reg x = s.dt := s.reg_setReg_advance_self x s.dt
    refine ⟨_, exec_ldVxDt x s, State.advance_pc _, hread, unchanged_setReg_advance s x _, ?_⟩
    rw [(s.setReg x s.dt).advance.toNat_dt_finishCycle hrunning, hread, State.advance_dt, State.setReg_dt]
  · have hwritten : (s.setDt (s.reg x)).advance.dt = s.reg x := State.setDt_dt s (s.reg x)
    refine ⟨_, exec_ldDtVx x s, State.advance_pc _, hwritten, unchanged_setDt_advance s _, ?_⟩
    rw [(s.setDt (s.reg x)).advance.toNat_dt_finishCycle hrunning, hwritten]
end

section
/-! Decoding and encoding are inverse to each other (30_encoding.md sections 1, 2): the fields that a format puts
together are those the decoder takes apart. -/

namespace Sys2Proof

theorem decodeWord_encode (i : Instr) (hwf : i.wf = true) : decodeWord (encode i) = .ok i := by
  cases i with
  | cls => rfl
  | ret => rfl
  | drw x y n =>
    have hn : n ≤ 15 := of_decide_eq_true hwf
    have hmod : n % 16 = n := by omega
    simp [decodeWord, encode, hmod]
  | _ => simp [decodeWord, decodeFamily8, decodeFamilyE, decodeFamilyF, encode]

/-! ## What each family decodes to -/

theorem encode_of_decodeFamily0 {w : Word} {i : Instr} (h : decodeFamily0 w = .ok i) :
    i.wf = true ∧ encode i = w := by
  unfold decodeFamily0 at h
  split at h
  · next hcls => cases h; exact ⟨rfl, hcls.symm⟩
  · split at h
    · next hret => cases h; exact ⟨rfl, hret.symm⟩
    · cases h

theorem encode_of_decodeFamily8 {w : Word} {i : Instr} (hop : Field.op w = 0x8#4) (h : decodeFamily8 w = .ok i) :
    i.wf = true ∧ encode i = w := by
  have hw := formatXYN_fields w
  rw [hop] at hw
  unfold decodeFamily8 at h
  split at h
  case h_10 => cases h
  all_goals next hn =>
    rw [hn] at hw
    cases h
    exact ⟨rfl, hw⟩

theorem encode_of_decodeFamilyE {w : Word} {i : Instr} (hop : Field.op w = 0xE#4) (h : decodeFamilyE w = .ok i) :
    i.wf = true ∧ encode i = w := by
  have hw := formatXNN_fields w
  rw [hop] at hw
  unfold decodeFamilyE at h
  split at h
  case h_3 => cases h
  all_goals next hnn =>
    rw [hnn] at hw
    cases h
    exact ⟨rfl, hw⟩

theorem encode_of_decodeFamilyF {w : Word} {i : Instr} (hop : Field.op w = 0xF#4) (h : decodeFamilyF w = .ok i) :
    i.wf = true ∧ encode i = w := by
  have hw := formatXNN_fields w
  rw [hop] at hw
  unfold decodeFamilyF at h
  split at h
  case h_10 => cases h
  all_goals next hnn =>
    rw [hnn] at hw
    cases h
    exact ⟨rfl, hw⟩

theorem encode_of_decodeWord {w : Word} {i : Instr} (h : decodeWord w = .ok i) : i.wf = true ∧ encode i = w := by
  unfold decodeWord at h
  split at h
  case h_1 => exact encode_of_decodeFamily0 h
  case h_9 hop => exact encode_of_decodeFamily8 hop h
  case h_15 hop => exact encode_of_decodeFamilyE hop h
  case h_16 => exact encode_of_decodeFamilyF (by simp_all [BitVec.toNat_eq]; omega) h
  case h_6 | h_10 =>
    next hop =>
    split at h
    · next hn => cases h; exact ⟨rfl, by rw [encode, ← hop, ← hn, formatXYN_fields]⟩
    · cases h
  case h_14 hop =>
    cases h
    refine ⟨decide_eq_true (Nat.le_of_lt_succ (Field.n w).isLt), ?_⟩
    rw [encode, BitVec.ofNat_toNat, BitVec.setWidth_eq, ← hop, formatXYN_fields]
  case h_2 | h_3 | h_11 | h_12 => next hop => cases h; exact ⟨rfl, by rw [encode, ← hop, formatNNN_fields]⟩
  all_goals next hop => cases h; exact ⟨rfl, by rw [encode, ← hop, formatXNN_fields]⟩

end Sys2Proof

open Sys2Proof in
/-- Settles O1, by cases on the instruction: each field that the encoder puts into the word is read back, and the row
count of Dxyn fits its field by well-formedness (30_encoding.md R52, R62). -/
theorem decodeInvertsEncode : Obligations.DecodeInvertsEncode := decodeWord_encode

open Sys2Proof in
/-- Settles O2, along the branches of the decoder: each fixes the nibbles that its format puts around the fields
(30_encoding.md R52, R62). -/
theorem encodeInvertsDecode : Obligations.EncodeInvertsDecode := fun _ _ => encode_of_decodeWord
end

section
/-! The decoder against the opcode map and against the table of unrecognized words (30_encoding.md sections 2, 3). -/

namespace Sys2Proof

/-! ## Unrecognized words -/

theorem decodeFamily0_error_iff (w : Word) :
    decodeFamily0 w = .error (.unrecognized w) ↔ w.toNat ≠ 0x00E0 ∧ w.toNat ≠ 0x00EE := by
  unfold decodeFamily0
  split
  · next hcls => simp [hcls]
  · split
    · next hret => simp [hret]
    · next hcls hret => simpa [BitVec.toNat_eq] using And.intro hcls hret

theorem decodeFamily8_error_iff (w : Word) :
    decodeFamily8 w = .error (.unrecognized w) ↔ w.toNat % 16 ∈ [0x8, 0x9, 0xA, 0xB, 0xC, 0xD, 0xF] := by
  rw [← Field.toNat_n]
  unfold decodeFamily8
  split
  case h_10 => simp_all [BitVec.toNat_eq]; omega
  all_goals next hn => simp [hn]

theorem decodeFamilyE_error_iff (w : Word) :
    decodeFamilyE w = .error (.unrecognized w) ↔ w.toNat % 256 ∉ [0x9E, 0xA1] := by
  rw [← Field.toNat_nn]
  unfold decodeFamilyE
  split
  case h_3 => simp_all [BitVec.toNat_eq]
  all_goals next hn => simp [hn]

theorem decodeFamilyF_error_iff (w : Word) :
    decodeFamilyF w = .error (.unrecognized w) ↔
      w.toNat % 256 ∉ [0x07, 0x0A, 0x15, 0x18, 0x1E, 0x29, 0x33, 0x55, 0x65] := by
  rw [← Field.toNat_nn]
  unfold decodeFamilyF
  split
  case h_10 => simp_all [BitVec.toNat_eq]
  all_goals next hn => simp [hn]

theorem decodeWord_error_iff (w : Word) :
    decodeWord w = .error (.unrecognized w) ↔
      (w.toNat / 4096 = 0x0 ∧ w.toNat ≠ 0x00E0 ∧ w.toNat ≠ 0x00EE) ∨
      (w.toNat / 4096 = 0x5 ∧ w.toNat % 16 ≠ 0) ∨
      (w.toNat / 4096 = 0x8 ∧ w.toNat % 16 ∈ [0x8, 0x9, 0xA, 0xB, 0xC, 0xD, 0xF]) ∨
      (w.toNat / 4096 = 0x9 ∧ w.toNat % 16 ≠ 0) ∨
      (w.toNat / 4096 = 0xE ∧ w.toNat % 256 ∉ [0x9E, 0xA1]) ∨
      (w.toNat / 4096 = 0xF ∧ w.toNat % 256 ∉ [0x07, 0x0A, 0x15, 0x18, 0x1E, 0x29, 0x33, 0x55, 0x65]) := by
  rw [← decodeFamily0_error_iff, ← decodeFamily8_error_iff, ← decodeFamilyE_error_iff, ← decodeFamilyF_error_iff,
    ← Field.toNat_op, ← Field.toNat_n]
  unfold decodeWord
  split
  case h_16 =>
    have hop : Field.op w = 0xF#4 := by simp_all [BitVec.toNat_eq]; omega
    simp [hop]
  case h_6 | h_10 =>
    next hop =>
    split
    · next hn => simp [hop, hn]
    · next hn => simpa [hop, BitVec.toNat_eq] using hn
  all_goals next hop => simp [hop]

/-! ## Totality -/

theorem decodeFamily0_total (w : Word) :
    (∃ i, decodeFamily0 w = .ok i) ∨ decodeFamily0 w = .error (.unrecognized w) := by
  unfold decodeFamily0
  split
  · exact .inl ⟨_, rfl⟩
  · split
    · exact .inl ⟨_, rfl⟩
    · exact .inr rfl

theorem decodeFamily8_total (w : Word) :
    (∃ i, decodeFamily8 w = .ok i) ∨ decodeFamily8 w = .error (.unrecognized w) := by
  unfold decodeFamily8
  split
  case h_10 => exact .inr rfl
  all_goals exact .inl ⟨_, rfl⟩

theorem decodeFamilyE_total (w : Word) :
    (∃ i, decodeFamilyE w = .ok i) ∨ decodeFamilyE w = .error (.unrecognized w) := by
  unfold decodeFamilyE
  split
  case h_3 => exact .inr rfl
  all_goals exact .inl ⟨_, rfl⟩

theorem decodeFamilyF_total (w : Word) :
    (∃ i, decodeFamilyF w = .ok i) ∨ decodeFamilyF w = .error (.unrecognized w) := by
  unfold decodeFamilyF
  split
  case h_10 => exact .inr rfl
  all_goals exact .inl ⟨_, rfl⟩

theorem decodeWord_total (w : Word) : (∃ i, decodeWord w = .ok i) ∨ decodeWord w = .error (.unrecognized w) := by
  unfold decodeWord
  split
  case h_1 => exact decodeFamily0_total w
  case h_9 => exact decodeFamily8_total w
  case h_15 => exact decodeFamilyE_total w
  case h_16 => exact decodeFamilyF_total w
  case h_6 | h_10 =>
    split
    · exact .inl ⟨_, rfl⟩
    · exact .inr rfl
  all_goals exact .inl ⟨_, rfl⟩

/-! ## The rows of the opcode map -/

/-- Two rows that one word selects agree where both masks are set, and no two rows of the map do. -/
theorem opcodeMap_disjoint {r r' : Row} (hr : r ∈ opcodeMap) (hr' : r' ∈ opcodeMap) {w : Word}
    (h : r.selects w) (h' : r'.selects w) : r = r' := by
  have hmap : ∀ r ∈ opcodeMap, ∀ r' ∈ opcodeMap, r.pattern &&& r'.mask = r'.pattern &&& r.mask → r = r' := by
    decide
  apply hmap r hr r' hr'
  rw [← h, ← h', BitVec.and_assoc, BitVec.and_assoc, BitVec.and_comm r.mask]

theorem opcodeMap_mnemonic_injective :
    ∀ r ∈ opcodeMap, ∀ r' ∈ opcodeMap, r.mnemonic = r'.mnemonic → r = r' := by
  decide

theorem Field.op_and (a b : Word) : Field.op (a &&& b) = Field.op a &&& Field.op b := BitVec.extractLsb'_and

theorem Field.n_and (a b : Word) : Field.n (a &&& b) = Field.n a &&& Field.n b := BitVec.extractLsb'_and

theorem Field.nn_and (a b : Word) : Field.nn (a &&& b) = Field.nn a &&& Field.nn b := BitVec.extractLsb'_and

/-- Every row fixes the family selector. -/
theorem Row.selects_op {r : Row} (hr : r ∈ opcodeMap) {w : Word} (h : r.selects w) :
    w.toNat / 4096 = (Field.op r.pattern).toNat := by
  have hmask : ∀ r ∈ opcodeMap, Field.op r.mask = BitVec.allOnes 4 := by decide
  rw [← Field.toNat_op, ← h, Field.op_and, hmask r hr, BitVec.and_allOnes]

theorem Row.selects_n {r : Row} (hmask : Field.n r.mask = BitVec.allOnes 4) {w : Word} (h : r.selects w) :
    w.toNat % 16 = (Field.n r.pattern).toNat := by
  rw [← Field.toNat_n, ← h, Field.n_and, hmask, BitVec.and_allOnes]

theorem Row.selects_nn {r : Row} (hmask : Field.nn r.mask = BitVec.allOnes 8) {w : Word} (h : r.selects w) :
    w.toNat % 256 = (Field.nn r.pattern).toNat := by
  rw [← Field.toNat_nn, ← h, Field.nn_and, hmask, BitVec.and_allOnes]

theorem Row.eq_pattern_of_selects {r : Row} (hmask : r.mask = BitVec.allOnes 16) {w : Word} (h : r.selects w) :
    w = r.pattern := by
  rw [← h, hmask, BitVec.and_allOnes]

/-- A word that selects a row is recognized: the rows of each of the six families with unrecognized words fix the bits
that the decoder of the family looks at. -/
theorem Row.decodes_of_selects {r : Row} (hr : r ∈ opcodeMap) {w : Word} (h : r.selects w) :
    ∃ i, decodeWord w = .ok i := by
  refine (decodeWord_total w).resolve_right fun herror => ?_
  have hop := Row.selects_op hr h
  rcases (decodeWord_error_iff w).mp herror with
    ⟨hw, hcls, hret⟩ | ⟨hw, hn⟩ | ⟨hw, hn⟩ | ⟨hw, hn⟩ | ⟨hw, hnn⟩ | ⟨hw, hnn⟩ <;>
    rw [hw] at hop
  · have hrows : ∀ r ∈ opcodeMap, 0x0 = (Field.op r.pattern).toNat →
        r.mask = BitVec.allOnes 16 ∧ (r.pattern = 0x00E0#16 ∨ r.pattern = 0x00EE#16) := by decide
    obtain ⟨hmask, hp | hp⟩ := hrows r hr hop
    · exact hcls (by rw [Row.eq_pattern_of_selects hmask h, hp]; rfl)
    · exact hret (by rw [Row.eq_pattern_of_selects hmask h, hp]; rfl)
  · have hrows : ∀ r ∈ opcodeMap, 0x5 = (Field.op r.pattern).toNat →
        Field.n r.mask = BitVec.allOnes 4 ∧ (Field.n r.pattern).toNat = 0 := by decide
    obtain ⟨hmask, hp⟩ := hrows r hr hop
    rw [Row.selects_n hmask h] at hn
    exact hn hp
  · have hrows : ∀ r ∈ opcodeMap, 0x8 = (Field.op r.pattern).toNat →
        Field.n r.mask = BitVec.allOnes 4 ∧
          (Field.n r.pattern).toNat ∉ [0x8, 0x9, 0xA, 0xB, 0xC, 0xD, 0xF] := by decide
    obtain ⟨hmask, hp⟩ := hrows r hr hop
    rw [Row.selects_n hmask h] at hn
    exact hp hn
  · have hrows : ∀ r ∈ opcodeMap, 0x9 = (Field.op r.pattern).toNat →
        Field.n r.mask = BitVec.allOnes 4 ∧ (Field.n r.pattern).toNat = 0 := by decide
    obtain ⟨hmask, hp⟩ := hrows r hr hop
    rw [Row.selects_n hmask h] at hn
    exact hn hp
  · have hrows : ∀ r ∈ opcodeMap, 0xE = (Field.op r.pattern).toNat →
        Field.nn r.mask = BitVec.allOnes 8 ∧ (Field.nn r.pattern).toNat ∈ [0x9E, 0xA1] := by decide
    obtain ⟨hmask, hp⟩ := hrows r hr hop
    rw [Row.selects_nn hmask h] at hnn
    exact hnn hp
  · have hrows : ∀ r ∈ opcodeMap, 0xF = (Field.op r.pattern).toNat →
        Field.nn r.mask = BitVec.allOnes 8 ∧
          (Field.nn r.pattern).toNat ∈ [0x07, 0x0A, 0x15, 0x18, 0x1E, 0x29, 0x33, 0x55, 0x65] := by decide
    obtain ⟨hmask, hp⟩ := hrows r hr hop
    rw [Row.selects_nn hmask h] at hnn
    exact hnn hp

open Laws in
theorem fixedBits : (i : Instr) → FixedBits.Statement i
  | .cls => FixedBits.cls
  | .ret => FixedBits.ret
  | .jp nnn => FixedBits.jp nnn
  | .call nnn => FixedBits.call nnn
  | .seImm x nn => FixedBits.seImm x nn
  | .sneImm x nn => FixedBits.sneImm x nn
  | .seReg x y => FixedBits.seReg x y
  | .ldImm x nn => FixedBits.ldImm x nn
  | .addImm x nn => FixedBits.addImm x nn
  | .ldReg x y => FixedBits.ldReg x y
  | .or x y => FixedBits.or x y
  | .and x y => FixedBits.and x y
  | .xor x y => FixedBits.xor x y
  | .addReg x y => FixedBits.addReg x y
  | .sub x y => FixedBits.sub x y
  | .shr x y => FixedBits.shr x y
  | .subn x y => FixedBits.subn x y
  | .shl x y => FixedBits.shl x y
  | .sneReg x y => FixedBits.sneReg x y
  | .ldI nnn => FixedBits.ldI nnn
  | .jpV0 nnn => FixedBits.jpV0 nnn
  | .rnd x nn => FixedBits.rnd x nn
  | .drw x y n => FixedBits.drw x y n
  | .skp x => FixedBits.skp x
  | .sknp x => FixedBits.sknp x
  | .ldVxDt x => FixedBits.ldVxDt x
  | .ldVxK x => FixedBits.ldVxK x
  | .ldDtVx x => FixedBits.ldDtVx x
  | .ldStVx x => FixedBits.ldStVx x
  | .addI x => FixedBits.addI x
  | .ldF x => FixedBits.ldF x
  | .ldB x => FixedBits.ldB x
  | .stRegs x => FixedBits.stRegs x
  | .ldRegs x => FixedBits.ldRegs x

end Sys2Proof

open Sys2Proof in
/-- Settles O3. The word of a decoded instruction selects the row that its mnemonic names, and a word that selects a row
is recognized, so the two rows it then selects are one (30_encoding.md R55; D12, log 7). -/
theorem decoderFollowsOpcodeMap : Obligations.DecoderFollowsOpcodeMap := by
  intro r hr w
  have hrow : ∀ i, decodeWord w = .ok i → ∃ r' ∈ opcodeMap, r'.mnemonic = i.mnemonic ∧ r'.selects w := by
    intro i hi
    rw [← (encode_of_decodeWord hi).2]
    exact fixedBits i
  constructor
  · intro h
    obtain ⟨i, hi⟩ := Row.decodes_of_selects hr h
    obtain ⟨r', hr', hname, h'⟩ := hrow i hi
    exact ⟨i, hi, by rw [opcodeMap_disjoint hr hr' h h', hname]⟩
  · rintro ⟨i, hi, hname⟩
    obtain ⟨r', hr', hname', h'⟩ := hrow i hi
    rwa [opcodeMap_mnemonic_injective r hr r' hr' (hname.symm.trans hname'.symm)]

open Sys2Proof in
/-- Settles O4: any two rows differ in a bit that both fix (30_encoding.md R55). -/
theorem opcodeMapRowsAreDisjoint : Obligations.OpcodeMapRowsAreDisjoint :=
  fun _ hr _ hr' _ => opcodeMap_disjoint hr hr'

open Sys2Proof in
/-- Settles O5, family by family along the decoder (30_encoding.md R57; D12, log 7). -/
theorem unrecognizedWordsByFamily : Obligations.UnrecognizedWordsByFamily :=
  fun w => ⟨decodeWord_total w, decodeWord_error_iff w⟩

open Sys2Proof in
/-- Settles O7 by running the decoder on the eight words (30_encoding.md R55; D12, log 7). -/
theorem sampleWordsDecode : Obligations.SampleWordsDecode :=
  ⟨rfl, rfl, rfl, rfl, rfl, rfl, rfl, rfl⟩
end

section
/-! The execute step in one form for the whole instruction set: the fault of the table, checked first, and else the
completed instruction. What holds of every instruction is proved from this form (40_cycle.md R68,
60_exceptions.md R136). -/

namespace Sys2Proof.Machine

/-! ## The completed instruction -/

/-- `STACK[SP] <- w` and `SP <- SP + 1`, with the stack not full (42_control_flow.md R87). -/
def State.pushed (s : State) (w : Word) : State :=
  { s with stack := s.stack.set s.sp.toNat w s.sp.isLt, sp := s.sp + 1 }

/-- `SP <- SP - 1` and `PC <- STACK[SP]`, with the stack not empty (42_control_flow.md R85). -/
def State.popped (s : State) : State :=
  { s with sp := s.sp - 1, pc := s.stack[(s.sp - 1).toNat]'(s.sp - 1).isLt }

/-- Memory with the bytes from `addr` up, all inside it (20_memory.md R36). -/
def State.stored (s : State) (addr : Nat) (bytes : List Byte) : State :=
  { s with mem := s.mem.writeBytes addr bytes }

/-- What an instruction that raises no fault leaves; `exec_eq_commit` ties it to `exec`. -/
def completed (i : Instr) (s : State) : State :=
  match i with
  | .cls => (s.emit .displayClear).advance
  | .ret => s.popped
  | .jp nnn => s.setPc (absAddr nnn)
  | .call nnn => (s.pushed (s.pc + 2)).setPc (absAddr nnn)
  | .seImm x nn => s.skipIf (decide (s.reg x = nn))
  | .sneImm x nn => s.skipIf (decide (s.reg x ≠ nn))
  | .seReg x y => s.skipIf (decide (s.reg x = s.reg y))
  | .ldImm x nn => (s.setReg x nn).advance
  | .addImm x nn => (s.setReg x (wrapSum (s.reg x) nn)).advance
  | .ldReg x y => (s.setReg x (s.reg y)).advance
  | .or x y => (s.setReg x (s.reg x ||| s.reg y)).advance
  | .and x y => (s.setReg x (s.reg x &&& s.reg y)).advance
  | .xor x y => (s.setReg x (s.reg x ^^^ s.reg y)).advance
  | .addReg x y => (s.resultThenFlag x (wrapSum (s.reg x) (s.reg y)) (carryFlag (s.reg x) (s.reg y))).advance
  | .sub x y => (s.resultThenFlag x (wrapDiff (s.reg x) (s.reg y)) (notBorrowFlag (s.reg x) (s.reg y))).advance
  | .shr x _ => (s.flagThenResult x (lsbFlag (s.reg x)) (s.reg x >>> 1)).advance
  | .subn x y => (s.resultThenFlag x (wrapDiff (s.reg y) (s.reg x)) (notBorrowFlag (s.reg y) (s.reg x))).advance
  | .shl x _ => (s.flagThenResult x (msbFlag (s.reg x)) (s.reg x <<< 1)).advance
  | .sneReg x y => s.skipIf (decide (s.reg x ≠ s.reg y))
  | .ldI nnn => (s.setI (absAddr nnn)).advance
  | .jpV0 nnn => s.setPc (s.indexedTarget nnn)
  | .rnd x nn => (s.setReg x (nn &&& s.rand)).advance
  | .drw x y n => s.drawRows x y (s.mem.readBytes s.i.toNat n)
  | .skp x => s.skipIf (s.keys.getLsbD (s.reg x).toNat)
  | .sknp x => s.skipIf (!s.keys.getLsbD (s.reg x).toNat)
  | .ldVxDt x => (s.setReg x s.dt).advance
  | .ldVxK x => s.keyWait x (lowestKey s.keys)
  | .ldDtVx x => (s.setDt (s.reg x)).advance
  | .ldStVx x => (s.setSt (s.reg x)).advance
  | .addI x => (s.setI (s.indexPlusReg x)).advance
  | .ldF x => (s.setI (s.glyphAddr x)).advance
  | .ldB x => (s.stored s.i.toNat (bcdDigits (s.reg x))).advance
  | .stRegs x => ((s.stored s.i.toNat (s.regBlock x)).stepIndex x).advance
  | .ldRegs x => ((s.loadRegs (s.mem.readBytes s.i.toNat (blockLen x))).stepIndex x).advance

/-! ## A check and its result -/

/-- The result of an operation behind a check: the violation, if there is one, and else the value. -/
def checked {α : Type} (o : Option Violation) (a : α) : Except Violation α := o.elim (.ok a) .error

theorem map_checked {α β : Type} (f : α → β) (o : Option Violation) (a : α) :
    (checked o a).map f = checked o (f a) := by
  cases o <;> rfl

theorem accessViolation_eq_none {addr n : Nat} : accessViolation addr n = none ↔ n = 0 ∨ addr + n ≤ 4096 := by
  rw [accessViolation, ite_eq_right_iff]
  simp only [reduceCtorEq, imp_false]
  omega

theorem accessViolation_of_lt {addr n : Nat} (hn : 0 < n) (h : 4096 < addr + n) :
    accessViolation addr n = some ⟨.memOor, max addr 4096⟩ :=
  if_pos (by omega)

theorem State.memRead_eq_checked (s : State) (addr n : Nat) :
    s.memRead addr n = checked (accessViolation addr n) (s.mem.readBytes addr n) := by
  rcases s.memRead_cases addr n with ⟨h, hread⟩ | ⟨⟨hn, h⟩, hread⟩
  · rw [hread, accessViolation_eq_none.mpr h, checked, Option.elim_none]
  · rw [hread, accessViolation_of_lt hn h, checked, Option.elim_some]

theorem State.memWrite_eq_checked (s : State) (addr : Nat) (bytes : List Byte) :
    s.memWrite addr bytes = checked (accessViolation addr bytes.length) (s.stored addr bytes) := by
  rcases s.memWrite_cases addr bytes with ⟨h, hwrite⟩ | ⟨⟨hn, h⟩, hwrite⟩
  · rw [hwrite, accessViolation_eq_none.mpr h, checked, Option.elim_none, State.stored]
  · rw [hwrite, accessViolation_of_lt hn h, checked, Option.elim_some]

theorem State.pushCall_eq_checked (s : State) (w : Word) :
    s.pushCall w = checked (if s.sp = 15#4 then some ⟨.stackOverflow, 15⟩ else none) (s.pushed w) := by
  rcases s.pushCall_cases w with ⟨h, hpush⟩ | ⟨h, hpush⟩
  · have hsp : s.sp ≠ 15#4 := by rintro hsp; rw [hsp] at h; exact absurd h (by decide)
    rw [hpush, if_neg hsp]; rfl
  · rw [hpush, if_pos (BitVec.eq_of_toNat_eq h)]; rfl

theorem State.popCall_eq_checked (s : State) :
    s.popCall = checked (if s.sp = 0#4 then some ⟨.stackUnderflow, 0⟩ else none) s.popped := by
  rcases s.popCall_cases with ⟨h, hpop⟩ | ⟨h, hpop⟩
  · have hsp : s.sp ≠ 0#4 := by rintro hsp; rw [hsp] at h; exact absurd h (by decide)
    rw [hpop, if_neg hsp]; rfl
  · rw [hpop, if_pos (BitVec.eq_of_toNat_eq h)]; rfl

theorem State.keyPressed_eq_checked (s : State) (k : Byte) :
    s.keyPressed k =
      checked (if 15 < k.toNat then some ⟨.keyIndex, k.toNat⟩ else none) (s.keys.getLsbD k.toNat) := by
  rcases s.keyPressed_cases k with ⟨h, hkey⟩ | ⟨h, hkey⟩
  · rw [hkey, if_neg (by omega)]; rfl
  · rw [hkey, if_pos h]; rfl

theorem length_regBlock (s : State) (x : Reg) : (s.regBlock x).length = x.toNat + 1 := by
  have hx := x.isLt
  simp only [State.regBlock, blockLen, List.length_take, Vector.length_toList]
  omega

/-! ## The form of every execute step -/

theorem exec_eq_commit (i : Instr) (s : State) : exec i s = commit i s (checked (faultOf i s) (completed i s)) := by
  cases i with
  | ret => exact congrArg (commit .ret s) s.popCall_eq_checked
  | call nnn => rw [exec, execCall, State.pushCall_eq_checked, map_checked]; rfl
  | drw x y n => rw [exec, execDrw, State.memRead_eq_checked, map_checked]; rfl
  | skp x => rw [exec, execSkp, State.keyPressed_eq_checked, map_checked]; rfl
  | sknp x => rw [exec, execSknp, State.keyPressed_eq_checked, map_checked]; rfl
  | ldB x => rw [exec, execLdB, State.memWrite_eq_checked, map_checked]; rfl
  | stRegs x => rw [exec, execStRegs, State.memWrite_eq_checked, map_checked, length_regBlock]; rfl
  | ldRegs x => rw [exec, execLdRegs, State.memRead_eq_checked, map_checked]; rfl
  | _ => rfl

theorem exec_of_faultOf_none {i : Instr} {s : State} (h : faultOf i s = none) :
    exec i s = .next (completed i s) := by
  rw [exec_eq_commit, h]; rfl

theorem exec_of_faultOf_some {i : Instr} {s : State} {e : Violation} (h : faultOf i s = some e) :
    exec i s = .next (s.takeFault e (some (encode i))) := by
  rw [exec_eq_commit, h]; rfl

/-- Everything an execute step can answer. -/
theorem exec_cases {i : Instr} {s t : State} (h : exec i s = .next t) :
    (faultOf i s = none ∧ t = completed i s) ∨
      ∃ e, faultOf i s = some e ∧ t = s.takeFault e (some (encode i)) := by
  cases hfault : faultOf i s with
  | none =>
    rw [exec_of_faultOf_none hfault] at h
    exact .inl ⟨rfl, (Host.Outcome.next.inj h).symm⟩
  | some e =>
    rw [exec_of_faultOf_some hfault] at h
    exact .inr ⟨e, rfl, (Host.Outcome.next.inj h).symm⟩

theorem faultOf_call_eq_none {nnn : Addr12} {s : State} : faultOf (.call nnn) s = none ↔ s.sp.toNat < 15 := by
  have hlt := s.sp.isLt
  rw [faultOf, ite_eq_right_iff, BitVec.toNat_eq]
  simp only [reduceCtorEq, imp_false, BitVec.toNat_ofNat]
  omega

theorem faultOf_ret_eq_none {s : State} : faultOf .ret s = none ↔ 0 < s.sp.toNat := by
  rw [faultOf, ite_eq_right_iff, BitVec.toNat_eq]
  simp only [reduceCtorEq, imp_false, BitVec.toNat_ofNat]
  omega

/-! ## What every completed instruction keeps -/

@[simp] theorem completed_fault (i : Instr) (s : State) : (completed i s).fault = s.fault := by
  cases i <;> rfl

end Sys2Proof.Machine

open Sys2Proof.Machine in
/-- Settles O15: the check of the table decides between the completed instruction, which leaves the latch alone, and the
fault entry, which writes the latch alone (60_exceptions.md R136, R141; D1 to D5; log 9). -/
theorem executeFaultsFollowTheTable : Obligations.ExecuteFaultsFollowTheTable := by
  intro i s t h
  rcases exec_cases h with ⟨hnone, rfl⟩ | ⟨e, hsome, rfl⟩
  · refine ⟨fun _ => completed_fault i s, fun e he => ?_⟩
    cases hnone.symm.trans he
  · refine ⟨fun hnone => ?_, fun e' he' => ?_⟩
    · cases hsome.symm.trans hnone
    · obtain rfl := Option.some.inj (hsome.symm.trans he')
      rfl
end

section
/-! What the completed instructions write: the call stack, the flags, the skips on a key that is not pressed, the key
wait and the block load (10_state.md sections 3 to 6). -/

namespace Sys2Proof.Machine

/-! ## The call stack -/

theorem State.getElem_stack_pushed (s : State) (w : Word) (k : Nat) (hk : k < 16) :
    (s.pushed w).stack[k] = if k = s.sp.toNat then w else s.stack[k] := by
  simp only [State.pushed, Vector.getElem_set, eq_comm]

theorem State.toNat_sp_pushed {s : State} (w : Word) (h : s.sp.toNat < 15) :
    (s.pushed w).sp.toNat = s.sp.toNat + 1 := by
  have hone : (1 : BitVec 4).toNat = 1 := rfl
  rw [State.pushed, BitVec.toNat_add_of_lt (by omega), hone]

theorem State.toNat_sp_popped {s : State} (h : 0 < s.sp.toNat) : s.popped.sp.toNat = s.sp.toNat - 1 := by
  have hone : (1 : BitVec 4).toNat = 1 := rfl
  rw [State.popped, BitVec.toNat_sub_of_le (by rw [BitVec.le_def]; omega), hone]

theorem State.pc_popped (s : State) {k : Nat} (hk : k < 16) (hsp : k + 1 = s.sp.toNat) :
    s.popped.pc = s.stack[k] := by
  have hentry : (s.sp - 1).toNat = k := (State.toNat_sp_popped (by omega)).trans (by omega)
  simp only [State.popped, hentry]

/-! ## Flags -/

theorem byte_eq_zero_or_one {a : Byte} (h : a.toNat < 2) : a = 0 ∨ a = 1 := by
  rcases Nat.lt_succ_iff_lt_or_eq.mp h with h | h
  · exact .inl (BitVec.eq_of_toNat_eq (Nat.lt_one_iff.mp h))
  · exact .inr (BitVec.eq_of_toNat_eq h)

theorem flagByte_cases (c : Bool) : flagByte c = 0 ∨ flagByte c = 1 := by
  cases c <;> decide

theorem toNat_lsbFlag (a : Byte) : (lsbFlag a).toNat = a.toNat % 2 := by
  rw [lsbFlag, BitVec.toNat_and]
  exact Nat.and_one_is_mod _

theorem toNat_msbFlag (a : Byte) : (msbFlag a).toNat = a.toNat / 128 := by
  rw [msbFlag, BitVec.toNat_ushiftRight, Nat.shiftRight_eq_div_pow]

theorem lsbFlag_cases (a : Byte) : lsbFlag a = 0 ∨ lsbFlag a = 1 :=
  byte_eq_zero_or_one (by rw [toNat_lsbFlag]; omega)

theorem msbFlag_cases (a : Byte) : msbFlag a = 0 ∨ msbFlag a = 1 :=
  byte_eq_zero_or_one (by rw [toNat_msbFlag]; omega)

theorem State.reg_flagThenResult_advance_result (s : State) (x : Reg) (c b : Byte) :
    (s.flagThenResult x c b).advance.reg x = b := by
  rw [State.reg_advance, State.reg_flagThenResult, if_pos rfl]

theorem State.reg_flagThenResult_advance_flag (s : State) {x : Reg} (hx : x ≠ vF) (c b : Byte) :
    (s.flagThenResult x c b).advance.reg vF = c := by
  rw [State.reg_advance, State.reg_flagThenResult, if_neg hx.symm, if_pos rfl]

theorem State.reg_setReg_advance_other (s : State) {x r : Reg} (h : x ≠ r) (b : Byte) :
    (s.setReg x b).advance.reg r = s.reg r := by
  rw [State.reg_advance, State.reg_setReg, if_neg h.symm]

theorem State.reg_drawRows_flag (s : State) (x y : Reg) (rows : List Byte) :
    (s.drawRows x y rows).reg vF = flagByte (s.emit (.displayDraw (s.reg x) (s.reg y) rows)).collision := by
  rw [State.drawRows, State.reg_advance, State.reg_setCollisionFlag, if_pos rfl]

/-! ## The negated skip -/

theorem State.pc_skipIf_not (s : State) (c : Bool) : (s.skipIf (!c)).pc = if c then s.pc + 2 else s.pc + 4 := by
  cases c <;> rfl

/-! ## The key wait -/

theorem State.keyWait_none (s : State) (x : Reg) : s.keyWait x none = s := by
  rw [State.keyWait, Option.map_none, Option.getD_none, State.setReg_reg_self]
  rfl

theorem State.keyWait_some (s : State) (x : Reg) (k : Nat) :
    s.keyWait x (some k) = (s.setReg x (BitVec.ofNat 8 k)).advance := rfl

theorem State.reg_keyWait_other (s : State) {x r : Reg} (h : x ≠ r) (key : Option Nat) :
    (s.keyWait x key).reg r = s.reg r := by
  rw [State.keyWait, State.reg_setPc, State.reg_setReg, if_neg h.symm]

theorem State.pc_keyWait_lowestKey (s : State) (x : Reg) :
    (s.keyWait x (lowestKey s.keys)).pc = if s.keys = 0 then s.pc else s.pc + 2 := by
  cases hkey : lowestKey s.keys with
  | none => rw [if_pos ((lowestKey_eq_none _).mp hkey), State.keyWait_none]
  | some k =>
    have hne : s.keys ≠ 0 := fun h => by cases hkey.symm.trans ((lowestKey_eq_none _).mpr h)
    rw [if_neg hne]
    rfl

/-! ## The block load -/

theorem State.reg_completed_ldRegs (s : State) (x r : Reg) :
    (completed (.ldRegs x) s).reg r = if r.toNat ≤ x.toNat then s.mem.read (s.i.toNat + r.toNat) else s.reg r := by
  have hreg : (completed (.ldRegs x) s).reg r = (s.loadRegs (s.mem.readBytes s.i.toNat (blockLen x))).reg r := rfl
  rw [hreg, State.reg_loadRegs]
  simp only [Memory.length_readBytes, Memory.getElem_readBytes, blockLen, Nat.lt_succ_iff, dite_eq_ite]

end Sys2Proof.Machine
end

section
/-! Who writes and who reads what, over all instructions (10_state.md sections 3 to 7). A fault entry writes the latch
alone, so each rule is a look at the completed instructions. -/

open Sys2Proof Sys2Proof.Machine

/-- Settles O20 (10_state.md R13; D5). -/
theorem pcMovesOnlyAsListed : Obligations.PcMovesOnlyAsListed := by
  intro i s t h
  rcases exec_cases h with ⟨hnone, rfl⟩ | ⟨e, hsome, rfl⟩
  · refine ⟨fun hfault => absurd hnone hfault, fun _ => ?_⟩
    cases i with
    | jp nnn | call nnn => exact toNat_absAddr nnn
    | jpV0 nnn => exact s.toNat_indexedTarget nnn
    | ret => exact fun k hk hsp => s.pc_popped hk hsp
    | ldVxK x => exact s.pc_keyWait_lowestKey x
    | seImm x nn | sneImm x nn | seReg x y | sneReg x y | skp x => simp [completed]
    | sknp x => exact s.pc_skipIf_not _
    | _ => rfl
  · exact ⟨fun _ => rfl, fun hnone => by cases hsome.symm.trans hnone⟩

/-- Settles O21: a call writes the entry numbered `SP`, which is not 15 when the call completes (10_state.md R14,
R15; D2, log 5). -/
theorem onlyCallAndReturnMoveTheStack : Obligations.OnlyCallAndReturnMoveTheStack := by
  intro i s t h
  rcases exec_cases h with ⟨hnone, rfl⟩ | ⟨e, -, rfl⟩
  · cases i with
    | call nnn =>
      have hentry : 15 ≠ s.sp.toNat := (faultOf_call_eq_none.mp hnone).ne'
      exact ⟨fun _ => ⟨nnn, rfl⟩, fun _ => .inr ⟨nnn, rfl⟩,
        (s.getElem_stack_pushed (s.pc + 2) 15 (by decide)).trans (if_neg hentry)⟩
    | ret => exact ⟨fun hne => absurd rfl hne, fun _ => .inl rfl, rfl⟩
    | _ => exact ⟨fun hne => absurd rfl hne, fun hne => absurd rfl hne, rfl⟩
  · exact ⟨fun hne => absurd rfl hne, fun hne => absurd rfl hne, rfl⟩

/-- Settles O22 (10_state.md section 5). -/
theorem onlyListedInstructionsWriteIndex : Obligations.OnlyListedInstructionsWriteIndex := by
  intro i s t h hne
  rcases exec_cases h with ⟨-, rfl⟩ | ⟨e, -, rfl⟩
  · cases i with
    | ldI nnn => exact .inl ⟨nnn, rfl⟩
    | addI x => exact .inr ⟨x, .inl rfl⟩
    | ldF x => exact .inr ⟨x, .inr (.inl rfl)⟩
    | stRegs x => exact .inr ⟨x, .inr (.inr (.inl rfl))⟩
    | ldRegs x => exact .inr ⟨x, .inr (.inr (.inr rfl))⟩
    | _ => exact absurd rfl hne
  · exact absurd rfl hne

/-- Settles O23 (10_state.md section 7, 20_memory.md section 5). -/
theorem onlyStoresWriteMemory : Obligations.OnlyStoresWriteMemory := by
  intro i s t h hne
  rcases exec_cases h with ⟨-, rfl⟩ | ⟨e, -, rfl⟩
  · cases i with
    | ldB x => exact ⟨x, .inl rfl⟩
    | stRegs x => exact ⟨x, .inr rfl⟩
    | _ => exact absurd rfl hne
  · exact absurd rfl hne

/-- Settles O24 (10_state.md R16, R17). -/
theorem onlyTimerInstructionsWriteTimers : Obligations.OnlyTimerInstructionsWriteTimers := by
  intro i s t h
  rcases exec_cases h with ⟨-, rfl⟩ | ⟨e, -, rfl⟩
  · cases i with
    | ldDtVx x => exact ⟨fun _ => ⟨x, rfl⟩, fun hne => absurd rfl hne⟩
    | ldStVx x => exact ⟨fun hne => absurd rfl hne, fun _ => ⟨x, rfl⟩⟩
    | _ => exact ⟨fun hne => absurd rfl hne, fun hne => absurd rfl hne⟩
  · exact ⟨fun hne => absurd rfl hne, fun hne => absurd rfl hne⟩

/-- Settles O25: a flag written last is what `VF` holds, and a write of `V[x]` leaves `VF` alone unless `x` is 15
(10_state.md R11, 44_load_arith.md R100; D6, log 6). -/
theorem flagRegisterWriters : Obligations.FlagRegisterWriters := by
  intro i s t h hnone
  obtain rfl : t = completed i s := Host.Outcome.next.inj (h.symm.trans (exec_of_faultOf_none hnone))
  have hbit : ∀ {a b : Byte}, a = b → b = 0 ∨ b = 1 → a = 0 ∨ a = 1 := fun heq hb => heq ▸ hb
  cases i with
  | addReg x y | sub x y | subn x y => exact hbit (s.reg_resultThenFlag_advance_flag x _ _) (flagByte_cases _)
  | drw x y n => exact hbit (s.reg_drawRows_flag x y _) (flagByte_cases _)
  | shr x y => exact fun hx => hbit (s.reg_flagThenResult_advance_flag hx _ _) (lsbFlag_cases _)
  | shl x y => exact fun hx => hbit (s.reg_flagThenResult_advance_flag hx _ _) (msbFlag_cases _)
  | ldImm x _ | addImm x _ | ldReg x _ | or x _ | and x _ | xor x _ | rnd x _ | ldVxDt x =>
    exact fun hx => s.reg_setReg_advance_other hx _
  | ldVxK x => exact fun hx => s.reg_keyWait_other hx _
  | ldRegs x =>
    intro hx
    have hlast : ¬ vF.toNat ≤ x.toNat := fun hle =>
      hx (BitVec.eq_of_toNat_eq (le_antisymm (Nat.le_of_lt_succ x.isLt) hle))
    rw [State.reg_completed_ldRegs, if_neg hlast]
  | _ => rfl

/-- Settles O26: neither the check of an instruction nor what it leaves mentions `ST`, except that Fx18 overwrites it
(10_state.md R17). -/
theorem soundTimerIsNeverRead : Obligations.SoundTimerIsNeverRead := by
  intro i s t b h
  have hsame : faultOf i (s.setSt b) = faultOf i s := by cases i <;> rfl
  rcases exec_cases h with ⟨hnone, rfl⟩ | ⟨e, hsome, rfl⟩
  · rw [exec_of_faultOf_none (hsame.trans hnone)]
    cases i <;> rfl
  · rw [exec_of_faultOf_some (hsame.trans hsome)]
    cases i with
    | ldStVx x => cases hsome
    | _ => rfl

/-- Settles O27: no check looks at the inputs, and each of the five consumers looks at one part of the first record
(40_cycle.md R73; D15, log 2). -/
theorem environmentReachesOnlyItsConsumers : Obligations.EnvironmentReachesOnlyItsConsumers := by
  rintro i s t ⟨keys, rand, collision⟩ ⟨keys', rand', collision'⟩ rest h hagree
  have hsame : faultOf i { s with inputs := ⟨keys', rand', collision'⟩ :: rest } =
      faultOf i { s with inputs := ⟨keys, rand, collision⟩ :: rest } := by
    cases i <;> rfl
  rcases exec_cases h with ⟨hnone, rfl⟩ | ⟨v, hsome, rfl⟩
  · rw [exec_of_faultOf_none (hsame.trans hnone)]
    cases i with
    | skp x | sknp x | ldVxK x => obtain rfl : keys' = keys := hagree; rfl
    | rnd x nn => obtain rfl : rand' = rand := hagree; rfl
    | drw x y n => obtain rfl : collision' = collision := hagree; rfl
    | _ => rfl
  · rw [exec_of_faultOf_some (hsame.trans hsome)]
    rfl
end

section
/-! One cycle in one form: the fault that the state calls for, or else the completed work of the cycle, the countdown
and the used-up inputs (40_cycle.md R65 to R75). What holds of every step is proved from this form. -/

namespace Sys2Proof.Machine

/-! ## The record a state calls for -/

theorem faultRecordOf_of_pc {s : State} (hpc : 4094 < s.pc.toNat) :
    faultRecordOf s = some ⟨.fetchOor, s.pc, none, s.pc.toNat⟩ := by
  rw [faultRecordOf, if_pos hpc]

theorem faultRecordOf_of_ok {s : State} {i : Instr} (hpc : s.pc.toNat ≤ 4094) (hi : decodeWord s.wordAtPc = .ok i) :
    faultRecordOf s = (faultOf i s).map fun e => ⟨e.kind, s.pc, some s.wordAtPc, e.info⟩ := by
  rw [faultRecordOf, if_neg (by omega), hi]

theorem faultRecordOf_of_error {s : State} {e : Reject} (hpc : s.pc.toNat ≤ 4094)
    (he : decodeWord s.wordAtPc = .error e) : faultRecordOf s = none := by
  rw [faultRecordOf, if_neg (by omega), he]

theorem toNat_pc_le_of_faultRecordOf_none {s : State} (hr : faultRecordOf s = none) : s.pc.toNat ≤ 4094 := by
  by_contra hpc
  cases (faultRecordOf_of_pc (by omega)).symm.trans hr

/-- The latch is not read by what it is set from (60_exceptions.md R141). -/
theorem faultRecordOf_latch (s : State) (o : Option FaultRecord) :
    faultRecordOf { s with fault := o } = faultRecordOf s := by
  have hsame : ∀ i, faultOf i { s with fault := o } = faultOf i s := fun i => by cases i <;> rfl
  simp only [faultRecordOf, hsame]
  rfl

/-! ## The cycle -/

/-- Report and skip (30_encoding.md R56). -/
def State.reported (s : State) : State := (s.emit (.unknownOpcode s.pc s.wordAtPc)).advance

/-- The work of a cycle that does not fault: the completed instruction at `PC`, or the report of the word there. -/
def State.worked (s : State) : State :=
  match decodeWord s.wordAtPc with
  | .ok i => completed i s
  | .error _ => s.reported

theorem State.worked_of_ok {s : State} {i : Instr} (hi : decodeWord s.wordAtPc = .ok i) : s.worked = completed i s := by
  rw [State.worked, hi]

theorem State.worked_of_error {s : State} {e : Reject} (he : decodeWord s.wordAtPc = .error e) :
    s.worked = s.reported := by
  rw [State.worked, he]

theorem step_of_fault {s : State} {r : FaultRecord} (h : s.fault = some r) : step s = .fault (.halted r) := by
  rw [step, h]

theorem step_of_pc {s : State} (hrunning : s.fault = none) (hpc : 4094 < s.pc.toNat) :
    step s = .next { s with fault := some ⟨.fetchOor, s.pc, none, s.pc.toNat⟩ } := by
  rcases step_cases s with ⟨r, hr, -⟩ | ⟨-, -, hstep⟩ | ⟨-, hle, -⟩
  · cases hrunning.symm.trans hr
  · exact hstep
  · omega

theorem step_eq_endCycle {s : State} (hrunning : s.fault = none) (hpc : s.pc.toNat ≤ 4094) :
    step s = endCycle (runWord s.wordAtPc s) := by
  rcases step_cases s with ⟨r, hr, -⟩ | ⟨-, hlt, -⟩ | ⟨-, -, hstep⟩
  · cases hrunning.symm.trans hr
  · omega
  · exact hstep

theorem step_of_exec {s t : State} {i : Instr} (hrunning : s.fault = none) (hpc : s.pc.toNat ≤ 4094)
    (hi : decodeWord s.wordAtPc = .ok i) (ht : exec i s = .next t) : step s = .next t.finishCycle := by
  rw [step_eq_endCycle hrunning hpc, runWord, hi]
  exact congrArg endCycle ht

theorem step_of_error {s : State} {e : Reject} (hrunning : s.fault = none) (hpc : s.pc.toNat ≤ 4094)
    (he : decodeWord s.wordAtPc = .error e) : step s = .next s.reported.countdown.nextInputs := by
  rw [step_eq_endCycle hrunning hpc, runWord, he, ← State.finishCycle_running s.reported hrunning]
  rfl

/-- A cycle that starts in a state which calls for a fault latches it and does nothing else (60_exceptions.md R141). -/
theorem step_of_faultRecordOf_some {s : State} {r : FaultRecord} (hrunning : s.fault = none)
    (hr : faultRecordOf s = some r) : step s = .next { s with fault := some r } := by
  by_cases hpc : 4094 < s.pc.toNat
  · obtain rfl := Option.some.inj ((faultRecordOf_of_pc hpc).symm.trans hr)
    exact step_of_pc hrunning hpc
  · have hpc : s.pc.toNat ≤ 4094 := by omega
    cases hi : decodeWord s.wordAtPc with
    | error e => cases (faultRecordOf_of_error hpc hi).symm.trans hr
    | ok i =>
      rw [faultRecordOf_of_ok hpc hi] at hr
      obtain ⟨e, he, rfl⟩ := Option.map_eq_some_iff.mp hr
      rw [step_of_exec hrunning hpc hi (exec_of_faultOf_some he), (encode_of_decodeWord hi).2]
      exact congrArg _ (State.finishCycle_faulted _ _ rfl)

/-- A cycle that starts in a state which calls for no fault does its work, counts down and uses up its inputs
(40_cycle.md R69). -/
theorem step_of_faultRecordOf_none {s : State} (hrunning : s.fault = none) (hr : faultRecordOf s = none) :
    step s = .next s.worked.countdown.nextInputs := by
  have hpc := toNat_pc_le_of_faultRecordOf_none hr
  cases hi : decodeWord s.wordAtPc with
  | error e => rw [step_of_error hrunning hpc hi, State.worked_of_error hi]
  | ok i =>
    rw [faultRecordOf_of_ok hpc hi, Option.map_eq_none_iff] at hr
    have hfault : (completed i s).fault = none := (completed_fault i s).trans hrunning
    rw [step_of_exec hrunning hpc hi (exec_of_faultOf_none hr), State.worked_of_ok hi,
      State.finishCycle_running _ hfault]

/-- Everything an answered step can be. -/
theorem step_next_cases {s t : State} (h : step s = .next t) :
    s.fault = none ∧
      ((∃ r, faultRecordOf s = some r ∧ t = { s with fault := some r }) ∨
        (faultRecordOf s = none ∧ t = s.worked.countdown.nextInputs)) := by
  cases hf : s.fault with
  | some r => cases (step_of_fault hf).symm.trans h
  | none =>
    refine ⟨rfl, ?_⟩
    cases hr : faultRecordOf s with
    | some r => exact .inl ⟨r, rfl, Host.Outcome.next.inj (h.symm.trans (step_of_faultRecordOf_some hf hr))⟩
    | none => exact .inr ⟨rfl, Host.Outcome.next.inj (h.symm.trans (step_of_faultRecordOf_none hf hr))⟩

theorem State.worked_fault (s : State) : s.worked.fault = s.fault := by
  cases hi : decodeWord s.wordAtPc with
  | ok i => rw [State.worked_of_ok hi, completed_fault]
  | error e => rw [State.worked_of_error hi]; rfl

/-! ## Runs -/

theorem run_succ_of_next {s t : State} (h : step s = .next t) (k : Nat) :
    Host.Core.run Sys2Proof.core (k + 1) s = Host.Core.run Sys2Proof.core k t := by
  have hstep : Host.Core.step Sys2Proof.core s = .next t := h
  simp only [Host.Core.run, hstep]

theorem run_succ_of_fault {s : State} {r : Fault} (h : step s = .fault r) (k : Nat) :
    Host.Core.run Sys2Proof.core (k + 1) s = .fault r := by
  have hstep : Host.Core.step Sys2Proof.core s = .fault r := h
  simp only [Host.Core.run, hstep]

/-! ## Events -/

theorem outputs_completed (i : Instr) (s : State) :
    (completed i s).outputs = s.outputs ∨
      (i = .cls ∧ (completed i s).outputs = s.outputs ++ [.displayClear]) ∨
      ∃ x y n rows, i = .drw x y n ∧
        (completed i s).outputs = s.outputs ++ [.displayDraw (s.reg x) (s.reg y) rows] := by
  cases i with
  | cls => exact .inr (.inl ⟨rfl, rfl⟩)
  | drw x y n => exact .inr (.inr ⟨x, y, n, _, rfl, rfl⟩)
  | _ => exact .inl rfl

theorem State.outputs_worked (s : State) :
    ∃ first : List Event, s.worked.outputs = s.outputs ++ first ∧ first.length ≤ 1 ∧ Event.soundEvent ∉ first := by
  cases hi : decodeWord s.wordAtPc with
  | error e =>
    rw [State.worked_of_error hi]
    exact ⟨[.unknownOpcode s.pc s.wordAtPc], rfl, by simp, by simp⟩
  | ok i =>
    rw [State.worked_of_ok hi]
    rcases outputs_completed i s with h | ⟨-, h⟩ | ⟨x, y, n, rows, -, h⟩
    · exact ⟨[], by simpa using h, by simp, by simp⟩
    · exact ⟨_, h, by simp, by simp⟩
    · exact ⟨_, h, by simp, by simp⟩

theorem State.outputs_countdown (s : State) :
    s.countdown.outputs = s.outputs ++ (if s.st.toNat = 1 then [.soundEvent] else []) := by
  have hst : s.st = 1 ↔ s.st.toNat = 1 := BitVec.toNat_eq
  by_cases h : s.st.toNat = 1
  · rw [if_pos h, State.countdown_outputs, if_pos (hst.mpr h)]
  · rw [if_neg h, State.countdown_outputs, if_neg (hst.not.mpr h), List.append_nil]

theorem countDown_eq_ofNat (b : Byte) : countDown b = BitVec.ofNat 8 (b.toNat - 1) := by
  rw [← toNat_countDown, BitVec.ofNat_toNat, BitVec.setWidth_eq]

end Sys2Proof.Machine

open Sys2Proof Sys2Proof.Machine

/-- Settles O13 (40_cycle.md R65, 60_exceptions.md R142; D5, log 4). -/
theorem runningCoreCompletesEveryCycle : Obligations.RunningCoreCompletesEveryCycle := by
  refine ⟨fun i s => ?_, fun s => ⟨fun ⟨t, ht⟩ => (step_next_cases ht).1, fun hrunning => ?_⟩⟩
  · cases h : faultOf i s with
    | none => exact ⟨_, exec_of_faultOf_none h⟩
    | some e => exact ⟨_, exec_of_faultOf_some h⟩
  · cases h : faultRecordOf s with
    | none => exact ⟨_, step_of_faultRecordOf_none hrunning h⟩
    | some r => exact ⟨_, step_of_faultRecordOf_some hrunning h⟩

/-- Settles O14: the work of a cycle emits at most its one event, the countdown at most the sound event, and a faulting
cycle does neither (40_cycle.md R71, R74; D5, D13, D15, D17). -/
theorem cycleEmitsAtMostTwoEvents : Obligations.CycleEmitsAtMostTwoEvents := by
  constructor
  · intro s t h
    obtain ⟨hrunning, ⟨r, -, rfl⟩ | ⟨-, rfl⟩⟩ := step_next_cases h
    · exact ⟨[], [], by simp, by simp, by simp, .inl rfl, fun _ => ⟨rfl, rfl⟩⟩
    · obtain ⟨first, hfirst, hlength, hsound⟩ := s.outputs_worked
      have hfault : s.worked.countdown.nextInputs.fault = none := s.worked_fault.trans hrunning
      refine ⟨first, if s.worked.st.toNat = 1 then [.soundEvent] else [], ?_, hlength, hsound, ?_,
        fun hne => absurd hfault hne⟩
      · rw [State.nextInputs_outputs, State.outputs_countdown, hfirst]
      · split <;> simp
  · intro i s t h hne
    rcases exec_cases h with ⟨-, rfl⟩ | ⟨e, -, rfl⟩
    · rcases outputs_completed i s with hsame | ⟨hcls, -⟩ | ⟨x, y, n, rows, hdrw, -⟩
      · exact absurd hsame hne
      · exact .inl hcls
      · exact .inr ⟨x, y, n, hdrw⟩
    · exact absurd rfl hne

/-- Settles O16 (60_exceptions.md R136, R139, R141; D1 to D5, D17). -/
theorem cycleLatchesTheFaultOfItsState : Obligations.CycleLatchesTheFaultOfItsState := by
  intro s hrunning
  cases hr : faultRecordOf s with
  | some r =>
    refine ⟨_, step_of_faultRecordOf_some hrunning hr, rfl, fun r' hr' => ?_⟩
    rw [← hr']
  | none =>
    exact ⟨_, step_of_faultRecordOf_none hrunning hr, s.worked_fault.trans hrunning, fun r hr' => by cases hr'⟩

/-- Settles O8: the end of the cycle acts on what the execute step answers (40_cycle.md R69 to R72; D5, D13, log 2). -/
theorem stepRunsTheDecodedInstruction : Obligations.StepRunsTheDecodedInstruction := by
  intro s t i hrunning hpc hi ht
  rw [step_of_exec hrunning hpc hi ht]
  constructor
  · intro hfault
    rw [State.finishCycle_running t hfault, ← countDown_eq_ofNat, ← countDown_eq_ofNat, ← State.outputs_countdown]
    rfl
  · intro hfault
    obtain ⟨r, hr⟩ := Option.ne_none_iff_exists'.mp hfault
    rw [State.finishCycle_faulted t r hr]

/-- Settles O9 (30_encoding.md R56, 60_exceptions.md R137; D13, D19, log 2). -/
theorem unrecognizedWordIsReportedAndSkipped : Obligations.UnrecognizedWordIsReportedAndSkipped := by
  rintro s w hrunning hpc rfl hw
  exact ⟨_, step_of_error hrunning hpc hw, rfl, s.reported.outputs_countdown, toNat_countDown s.dt,
    toNat_countDown s.st, rfl, rfl, rfl, rfl, rfl, hrunning, rfl, rfl⟩

/-- Settles O10 (40_cycle.md R66; D1, D5). -/
theorem fetchOutOfRangeLatchesFault : Obligations.FetchOutOfRangeLatchesFault :=
  fun _ hrunning hpc => step_of_pc hrunning hpc

/-- Settles O11: the first of any number of cycles already answers no next state (60_exceptions.md R142; D5, D21,
log 4). -/
theorem faultedCoreTakesNoStep : Obligations.FaultedCoreTakesNoStep :=
  fun _ _ hr => ⟨run_succ_of_fault (step_of_fault hr), fun _ => rfl⟩
end

section
/-! The invariant of the core: the work of a cycle keeps each of its parts, and a fault entry changes the latch alone
(10_state.md section 4). -/

namespace Sys2Proof.Machine

/-! ## `PC` -/

theorem toNat_word_add_le (a b : Word) : (a + b).toNat ≤ a.toNat + b.toNat := by
  rw [BitVec.toNat_add]
  exact Nat.mod_le _ _

theorem State.toNat_pc_skipIf_le (s : State) (c : Bool) : (s.skipIf c).pc.toNat ≤ s.pc.toNat + 4 := by
  cases c with
  | false => exact (toNat_word_add_le s.pc 2).trans (Nat.add_le_add_left (by decide) _)
  | true => exact toNat_word_add_le s.pc 4

/-! ## The instructions -/

section

variable {i : Instr} {s : State} (hnone : faultOf i s = none) (hpc : s.pc.toNat ≤ 4094)
  (hstack : ∀ k (h : k < 16), k < s.sp.toNat → s.stack[k].toNat ≤ 4096)

include hnone hpc hstack

/-- From a fetchable `PC` an instruction reaches at most 0x10FE, the farthest target of Bnnn (10_state.md R24). -/
theorem toNat_pc_completed_le : (completed i s).pc.toNat ≤ 0x10FE := by
  have hnext : (s.pc + 2).toNat ≤ s.pc.toNat + 2 := toNat_word_add_le s.pc 2
  cases i with
  | jp nnn | call nnn =>
    have hbound := nnn.isLt
    exact (toNat_absAddr nnn).trans_le (by omega)
  | jpV0 nnn =>
    have hbound := nnn.isLt
    have hbyte := (s.reg 0#4).isLt
    exact (s.toNat_indexedTarget nnn).trans_le (by omega)
  | ret =>
    have hsp := faultOf_ret_eq_none.mp hnone
    have hlt := s.sp.isLt
    have htop : s.sp.toNat - 1 < 16 := by omega
    have hentry := hstack (s.sp.toNat - 1) htop (by omega)
    exact (congrArg BitVec.toNat (s.pc_popped htop (by omega))).trans_le (by omega)
  | ldVxK x =>
    have hle : (if s.keys = 0 then s.pc else s.pc + 2).toNat ≤ s.pc.toNat + 2 := by split <;> omega
    exact (congrArg BitVec.toNat (s.pc_keyWait_lowestKey x)).trans_le (by omega)
  | seImm x nn | sneImm x nn | seReg x y | sneReg x y | skp x | sknp x =>
    exact (s.toNat_pc_skipIf_le _).trans (by omega)
  | _ => exact hnext.trans (by omega)

/-- The one entry that an instruction writes is `PC + 2` of a fetchable `PC` (10_state.md R24). -/
theorem toNat_stack_completed_le (k : Nat) (h : k < 16) (hk : k < (completed i s).sp.toNat) :
    (completed i s).stack[k].toNat ≤ 4096 := by
  cases i with
  | call nnn =>
    have hsp : k < s.sp.toNat + 1 := hk.trans_eq (State.toNat_sp_pushed (s.pc + 2) (faultOf_call_eq_none.mp hnone))
    have hentry := congrArg BitVec.toNat (s.getElem_stack_pushed (s.pc + 2) k h)
    refine hentry.trans_le ?_
    split
    · exact (toNat_word_add_le s.pc 2).trans (Nat.add_le_add_right hpc 2)
    · exact hstack k h (by omega)
  | ret =>
    have hsp : k < s.sp.toNat - 1 := hk.trans_eq (State.toNat_sp_popped (faultOf_ret_eq_none.mp hnone))
    exact hstack k h (by omega)
  | _ => exact hstack k h hk

end

theorem wf_mem_completed {i : Instr} {s : State} (hnone : faultOf i s = none) (hwf : s.mem.wf) :
    (completed i s).mem.wf := by
  cases i with
  | ldB x =>
    have hfits := (accessViolation_eq_none.mp hnone).resolve_left (by decide)
    exact Memory.wf_writeBytes _ _ _ hwf (.inr hfits)
  | stRegs x =>
    have hfits := (accessViolation_eq_none.mp hnone).resolve_left (Nat.succ_ne_zero _)
    refine Memory.wf_writeBytes _ _ _ hwf (.inr ?_)
    rwa [length_regBlock]
  | _ => exact hwf

/-! ## The work of a cycle -/

theorem State.Inv.worked {s : State} (hinv : s.Inv) (hrunning : s.fault = none) (hr : faultRecordOf s = none) :
    s.worked.Inv := by
  have hpc := toNat_pc_le_of_faultRecordOf_none hr
  have hlatch : ∀ r, s.worked.fault = some r → faultRecordOf s.worked = some r := fun r h => by
    rw [State.worked_fault, hrunning] at h
    cases h
  cases hi : decodeWord s.wordAtPc with
  | error e =>
    rw [State.worked_of_error hi] at hlatch ⊢
    have hnext : (s.pc + 2).toNat ≤ s.pc.toNat + 2 := toNat_word_add_le s.pc 2
    exact ⟨hinv.mem_wf, hnext.trans (by omega), hinv.stack_le, hlatch⟩
  | ok i =>
    rw [faultRecordOf_of_ok hpc hi, Option.map_eq_none_iff] at hr
    rw [State.worked_of_ok hi] at hlatch ⊢
    exact ⟨wf_mem_completed hr hinv.mem_wf, toNat_pc_completed_le hr hpc hinv.stack_le,
      toNat_stack_completed_le hr hpc hinv.stack_le, hlatch⟩

theorem State.Inv.latched {s : State} (hinv : s.Inv) {r : FaultRecord} (hr : faultRecordOf s = some r) :
    State.Inv { s with fault := some r } :=
  ⟨hinv.mem_wf, hinv.pc_le, hinv.stack_le, fun r' hr' => by rw [faultRecordOf_latch, hr, ← hr']⟩

/-- The countdown and the used-up inputs touch nothing the invariant speaks of. -/
theorem State.Inv.ended {s : State} (hinv : s.Inv) (hrunning : s.fault = none) : s.countdown.nextInputs.Inv :=
  ⟨hinv.mem_wf, hinv.pc_le, hinv.stack_le, fun r hr => by cases hrunning.symm.trans hr⟩

/-- A state with an empty stack, `PC` at the load address and no fault latched, whatever bytes it holds. -/
theorem State.inv_of_wf_mem {s : State} (hwf : s.mem.wf) (hpc : s.pc = BitVec.ofNat 16 Config.loadAddress)
    (hsp : s.sp = 0) (hrunning : s.fault = none) : s.Inv := by
  refine ⟨hwf, by rw [hpc]; decide, fun k h hk => ?_, fun r hr => ?_⟩
  · rw [hsp] at hk
    exact absurd hk (Nat.not_lt_zero k)
  · cases hrunning.symm.trans hr

end Sys2Proof.Machine

open Sys2Proof Sys2Proof.Machine

/-- Settles O17: a step is a fault entry or the work of a cycle with its end, and both keep the invariant (10_state.md
R24, 60_exceptions.md R140, R141; D5, log 1). -/
theorem stepKeepsInvariant : Obligations.StepKeepsInvariant := by
  intro s t hinv h
  obtain ⟨hrunning, ⟨r, hr, rfl⟩ | ⟨hr, rfl⟩⟩ := step_next_cases h
  · exact hinv.latched hr
  · exact (hinv.worked hrunning hr).ended (s.worked_fault.trans hrunning)

/-- Settles O18 (10_state.md R22; log 1). -/
theorem resetMeetsInvariant : Obligations.ResetMeetsInvariant :=
  State.inv_of_wf_mem State.reset_wf rfl rfl rfl

/-- Settles O19: reset and load keep memory canonical, and all else is as reset leaves it (70_reset_and_hazards.md R165,
R167, R169; log 1, log 8). -/
theorem launchMeetsInvariant : Obligations.LaunchMeetsInvariant := fun font image s =>
  State.inv_of_wf_mem ((s.resetCore font).load_wf image (s.resetCore_wf font)) rfl rfl rfl
end

section
/-! The frames of the remaining updates: a request, the sound timer, the call stack, stored bytes, the block load and
the flag-first write of the shifts. -/

namespace Sys2Proof.Machine

variable {s t : State} {f : Footprint}

theorem Unchanged.emit (h : Unchanged f s t) (hout : f.outputs = true) (e : Event) : Unchanged f s (t.emit e) := by
  obtain ⟨hregs, hindex, hstack, hdelay, hsound, hmem, -, hrest⟩ := h
  exact ⟨hregs, hindex, hstack, hdelay, hsound, hmem, fun hkept => absurd hkept (ne_false_of_eq_true hout), hrest⟩

theorem Unchanged.setSt (h : Unchanged f s t) (hsound : f.sound = true) (b : Byte) : Unchanged f s (t.setSt b) := by
  obtain ⟨hregs, hindex, hstack, hdelay, -, hrest⟩ := h
  exact ⟨hregs, hindex, hstack, hdelay, fun hkept => absurd hkept (ne_false_of_eq_true hsound), hrest⟩

theorem Unchanged.pushed (h : Unchanged f s t) (hstack : f.stack = true) (w : Word) :
    Unchanged f s (t.pushed w) := by
  obtain ⟨hregs, hindex, -, hrest⟩ := h
  exact ⟨hregs, hindex, fun hkept => absurd hkept (ne_false_of_eq_true hstack), hrest⟩

theorem Unchanged.popped (h : Unchanged f s t) (hstack : f.stack = true) : Unchanged f s t.popped := by
  obtain ⟨hregs, hindex, -, hrest⟩ := h
  exact ⟨hregs, hindex, fun hkept => absurd hkept (ne_false_of_eq_true hstack), hrest⟩

theorem Unchanged.stored (h : Unchanged f s t) (bytes : List Byte) (hlen : bytes.length ≤ f.memLen) :
    Unchanged f s (t.stored f.memAt bytes) := by
  obtain ⟨hregs, hindex, hstack, hdelay, hsound, hmem, hrest⟩ := h
  refine ⟨hregs, hindex, hstack, hdelay, hsound, fun a ha => ?_, hrest⟩
  rw [State.stored, Memory.read_writeBytes_outside bytes t.mem f.memAt a (by omega), hmem a ha]

theorem Unchanged.loadRegs (h : Unchanged f s t) (bytes : List Byte)
    (hregs : ∀ r : Reg, r.toNat < bytes.length → r ∈ f.regs) : Unchanged f s (t.loadRegs bytes) := by
  obtain ⟨hkept, hrest⟩ := h
  refine ⟨fun r hr => ?_, hrest⟩
  rw [State.reg_loadRegs, dif_neg fun hlt => hr (hregs r hlt), hkept r hr]

theorem unchanged_flagThenResult_advance (s : State) (x : Reg) (c b : Byte) :
    Unchanged { regs := [x, vF] } s (s.flagThenResult x c b).advance :=
  (((Unchanged.refl _ s).setReg (List.mem_cons_of_mem x (List.mem_singleton_self vF)) c).setReg
    List.mem_cons_self b).advance

end Sys2Proof.Machine
end

section
/-! Calls and returns (42_control_flow.md R85, R87). -/

namespace Sys2Proof.Machine

theorem exec_call_of_lt (nnn : Addr12) {s : State} (h : s.sp.toNat < 15) :
    exec (.call nnn) s = .next ((s.pushed (s.pc + 2)).setPc (absAddr nnn)) :=
  exec_of_faultOf_none (faultOf_call_eq_none.mpr h)

theorem exec_ret_of_pos {s : State} (h : 0 < s.sp.toNat) : exec .ret s = .next s.popped :=
  exec_of_faultOf_none (faultOf_ret_eq_none.mpr h)

end Sys2Proof.Machine

open Sys2Proof Sys2Proof.Machine

/-- Settles O32 (42_control_flow.md R87; D2, D5, log 5). -/
theorem callPushesReturnAddress : Obligations.CallPushesReturnAddress := by
  refine fun nnn s => ⟨fun h => ?_, fun h => ?_⟩
  · exact ⟨_, exec_call_of_lt nnn h, toNat_absAddr nnn, State.toNat_sp_pushed (s.pc + 2) h,
      s.getElem_stack_pushed (s.pc + 2), ((Unchanged.refl _ s).pushed rfl _).setPc _⟩
  · have hfault : faultOf (.call nnn) s = some ⟨.stackOverflow, 15⟩ := if_pos (BitVec.eq_of_toNat_eq h)
    exact exec_of_faultOf_some hfault

/-- Settles O33 (42_control_flow.md R85; D3, D5). -/
theorem returnPopsIntoPc : Obligations.ReturnPopsIntoPc := by
  refine fun s => ⟨fun h => ?_, fun h => ?_⟩
  · have hsp := State.toNat_sp_popped h
    exact ⟨_, exec_ret_of_pos h, by omega, rfl, fun k hk hsp => s.pc_popped hk hsp, (Unchanged.refl _ s).popped rfl⟩
  · have hfault : faultOf .ret s = some ⟨.stackUnderflow, 0⟩ := if_pos (BitVec.eq_of_toNat_eq h)
    exact exec_of_faultOf_some hfault

/-- Settles O34: the return pops the entry that the call pushed (42_control_flow.md R85, R87; 95_test_vectors.md E7). -/
theorem callThenReturnComesBack : Obligations.CallThenReturnComesBack := by
  intro nnn s h
  have hlt := s.sp.isLt
  have hpushed := State.toNat_sp_pushed (s.pc + 2) h
  have hpos : 0 < ((s.pushed (s.pc + 2)).setPc (absAddr nnn)).sp.toNat := by
    rw [State.setPc_sp, hpushed]
    omega
  have hpc := ((s.pushed (s.pc + 2)).setPc (absAddr nnn)).pc_popped hlt hpushed.symm
  refine ⟨_, _, exec_call_of_lt nnn h, exec_ret_of_pos hpos, ?_, ?_, fun k hk hne => ?_,
    (((Unchanged.refl _ s).pushed rfl _).setPc _).popped rfl⟩
  · exact hpc.trans ((s.getElem_stack_pushed _ _ hlt).trans (if_pos rfl))
  · exact BitVec.add_sub_cancel s.sp 1
  · exact (s.getElem_stack_pushed _ k hk).trans (if_neg hne)
end

section
/-! Dxyn, and the skips on a key (41_display.md R81, 43_skips.md R95, R96). -/

namespace Sys2Proof.Machine

variable (s : State)

theorem unchanged_drawRows (x y : Reg) (rows : List Byte) :
    Unchanged { regs := [vF], outputs := true } s (s.drawRows x y rows) :=
  (((Unchanged.refl _ s).emit rfl _).setReg (List.mem_singleton_self vF) _).advance

theorem State.collision_of_inputs {s : State} {e : EnvInputs} {rest : List EnvInputs} (h : s.inputs = e :: rest) :
    s.collision = e.collision := by
  rw [State.collision, h]

theorem State.rand_of_inputs {s : State} {e : EnvInputs} {rest : List EnvInputs} (h : s.inputs = e :: rest) :
    s.rand = e.rand := by
  rw [State.rand, h]

theorem State.keys_of_inputs {s : State} {e : EnvInputs} {rest : List EnvInputs} (h : s.inputs = e :: rest) :
    s.keys = e.keys := by
  rw [State.keys, h]

end Sys2Proof.Machine

open Sys2Proof Sys2Proof.Machine

/-- Settles O29 (41_display.md R81; D1, D5, D15, D16, log 2). -/
theorem drawSendsTheSpriteAtIndex : Obligations.DrawSendsTheSpriteAtIndex := by
  refine fun x y n s => ⟨fun h => ?_, fun hn h => ?_⟩
  · have hnone : faultOf (.drw x y n) s = none := accessViolation_eq_none.mpr h
    have hflag := s.reg_drawRows_flag x y (s.mem.readBytes s.i.toNat n)
    refine ⟨_, exec_of_faultOf_none hnone, rfl, rfl, ?_, fun e rest hinputs => ?_, unchanged_drawRows s x y _⟩
    · rcases flagByte_cases _ with hc | hc
      · exact .inl (congrArg BitVec.toNat (hflag.trans hc))
      · exact .inr (congrArg BitVec.toNat (hflag.trans hc))
    · rw [completed, hflag, toNat_flagByte, State.collision_of_inputs ((State.emit_inputs s _).trans hinputs)]
  · have hfault : faultOf (.drw x y n) s = some ⟨.memOor, max s.i.toNat 4096⟩ := accessViolation_of_lt hn h
    exact exec_of_faultOf_some hfault

/-- Settles O37 (43_skips.md R95, R96; D4, D5). -/
theorem keySkips : Obligations.KeySkips := by
  refine fun x s => ⟨fun h => ?_, fun h => ?_⟩
  · have hskp : faultOf (.skp x) s = none := if_neg (by omega)
    have hsknp : faultOf (.sknp x) s = none := hskp
    exact ⟨⟨_, exec_of_faultOf_none hskp, rfl, (Unchanged.refl _ s).skipIf _⟩,
      ⟨_, exec_of_faultOf_none hsknp, s.pc_skipIf_not _, (Unchanged.refl _ s).skipIf _⟩⟩
  · have hskp : faultOf (.skp x) s = some ⟨.keyIndex, (s.reg x).toNat⟩ := if_pos h
    have hsknp : faultOf (.sknp x) s = some ⟨.keyIndex, (s.reg x).toNat⟩ := hskp
    exact ⟨exec_of_faultOf_some hskp, exec_of_faultOf_some hsknp⟩
end

section
/-! The shifts, and the transfers that no access check guards: Fx1E, Cxnn, Fx18 and Fx0A (44_load_arith.md R109, R111,
45_index_memory.md R116, 46_random_timers_keywait.md). -/

namespace Sys2Proof.Machine

theorem toNat_shiftRight_one (a : Byte) : (a >>> 1).toNat = a.toNat / 2 := by
  rw [BitVec.toNat_ushiftRight, Nat.shiftRight_eq_div_pow]

theorem toNat_shiftLeft_one (a : Byte) : (a <<< 1).toNat = a.toNat * 2 % 256 := by
  rw [BitVec.toNat_shiftLeft, Nat.shiftLeft_eq]

theorem State.toNat_indexPlusReg (s : State) (x : Reg) :
    (s.indexPlusReg x).toNat = (s.i.toNat + (s.reg x).toNat) % 65536 := by
  have hreg : ((s.reg x).setWidth 16).toNat = (s.reg x).toNat := BitVec.toNat_setWidth_of_le (by decide)
  rw [State.indexPlusReg, BitVec.toNat_add, hreg]

/-- The lowest pressed key is the one found (46_random_timers_keywait.md R127). -/
theorem lowestKey_of_lowest {keys : BitVec 16} {k : Nat} (hpressed : keys.getLsbD k = true)
    (hlow : ∀ j, j < k → keys.getLsbD j = false) : lowestKey keys = some k := by
  cases hkey : lowestKey keys with
  | none =>
    have hnot : keys.getLsbD k = false := (lowestKey_eq_none keys).mp hkey ▸ BitVec.getLsbD_zero
    cases hpressed.symm.trans hnot
  | some j =>
    obtain ⟨-, hj, hjlow⟩ := lowestKey_eq_some keys j hkey
    rcases lt_trichotomy j k with h | rfl | h
    · cases hj.symm.trans (hlow j h)
    · rfl
    · cases hpressed.symm.trans (hjlow k h)

theorem exec_ldVxK_of_no_key (x : Reg) {s : State} (hkeys : s.keys = 0) : exec (.ldVxK x) s = .next s := by
  rw [exec_of_faultOf_none rfl, completed, (lowestKey_eq_none s.keys).mpr hkeys, State.keyWait_none]

theorem exec_ldVxK_of_lowest (x : Reg) {s : State} {k : Nat} (hpressed : s.keys.getLsbD k = true)
    (hlow : ∀ j, j < k → s.keys.getLsbD j = false) :
    exec (.ldVxK x) s = .next (s.setReg x (BitVec.ofNat 8 k)).advance := by
  rw [exec_of_faultOf_none rfl, completed, lowestKey_of_lowest hpressed hlow, State.keyWait_some]

theorem toNat_ofNat_key {k : Nat} (hk : k < 16) : (BitVec.ofNat 8 k).toNat = k :=
  Nat.mod_eq_of_lt (by omega)

end Sys2Proof.Machine

open Sys2Proof Sys2Proof.Machine

/-- Settles O43: the flag is written first, so the shifted value stays in `V[x]` for every `x` (44_load_arith.md R100,
R109, R111; D6, log 6). -/
theorem shiftsKeepTheResultLast : Obligations.ShiftsKeepTheResultLast := by
  refine fun x y s => ⟨⟨_, exec_of_faultOf_none rfl, rfl, ?_, fun hx => ?_, unchanged_flagThenResult_advance s x _ _⟩,
    ⟨_, exec_of_faultOf_none rfl, rfl, ?_, fun hx => ?_, unchanged_flagThenResult_advance s x _ _⟩⟩
  · rw [completed, State.reg_flagThenResult_advance_result, toNat_shiftRight_one]
  · rw [completed, s.reg_flagThenResult_advance_flag hx, toNat_lsbFlag]
  · rw [completed, State.reg_flagThenResult_advance_result, toNat_shiftLeft_one]
  · rw [completed, s.reg_flagThenResult_advance_flag hx, toNat_msbFlag]

/-- Settles O45 (45_index_memory.md R116; D7). -/
theorem addToIndexWrapsWithoutFlag : Obligations.AddToIndexWrapsWithoutFlag := fun x s =>
  ⟨_, exec_of_faultOf_none rfl, rfl, s.toNat_indexPlusReg x, unchanged_setI_advance s _⟩

/-- Settles O50 (46_random_timers_keywait.md R125; D15, log 2). -/
theorem randomByteIsMasked : Obligations.RandomByteIsMasked := by
  intro x nn s
  have hreg : (completed (.rnd x nn) s).reg x = nn &&& s.rand := s.reg_setReg_advance_self x _
  refine ⟨_, exec_of_faultOf_none rfl, rfl, fun k => ?_, fun e rest hinputs => ?_, unchanged_setReg_advance s x _⟩
  · rw [hreg, BitVec.getLsbD_and]
  · rw [hreg, State.rand_of_inputs hinputs]

/-- Settles O52: the countdown of the cycle acts on the value just written (46_random_timers_keywait.md R129,
40_cycle.md R70, R71; D13). -/
theorem soundTimerIsSetAndCounted : Obligations.SoundTimerIsSetAndCounted := by
  intro x s hrunning
  have hfault : (completed (.ldStVx x) s).fault = none := (completed_fault _ s).trans hrunning
  refine ⟨_, exec_of_faultOf_none rfl, rfl, rfl, ((Unchanged.refl _ s).setSt rfl _).advance, ?_, ?_⟩
  · rw [State.finishCycle_running _ hfault]
    exact toNat_countDown (s.reg x)
  · rw [State.finishCycle_running _ hfault]
    exact State.outputs_countdown _

/-- Settles O53 (46_random_timers_keywait.md R127). -/
theorem keyWaitTakesTheLowestKey : Obligations.KeyWaitTakesTheLowestKey := by
  refine fun x s => ⟨exec_ldVxK_of_no_key x, fun k hk hpressed hlow => ?_⟩
  refine ⟨_, exec_ldVxK_of_lowest x hpressed hlow, rfl, ?_, unchanged_setReg_advance s x _⟩
  rw [State.reg_setReg_advance_self, toNat_ofNat_key hk]
end

section
/-! The stores and the block load: Fx33, Fx55 and Fx65 (45_index_memory.md R118 to R120). -/

namespace Sys2Proof.Machine

variable (s : State)

theorem State.read_stored (addr : Nat) (bytes : List Byte) (k : Nat) (hk : k < bytes.length) :
    (s.stored addr bytes).mem.read (addr + k) = bytes[k] := by
  rw [State.stored, Memory.read_writeBytes, dif_pos ⟨Nat.le_add_right addr k, by omega⟩]
  simp only [Nat.add_sub_cancel_left]

theorem getElem_regBlock (x k : Reg) (hk : k.toNat < (s.regBlock x).length) : (s.regBlock x)[k.toNat] = s.reg k := by
  simp only [State.regBlock, List.getElem_take, Vector.getElem_toList, State.reg]

theorem faultOf_stRegs_eq_none {x : Reg} {s : State} (h : s.i.toNat + x.toNat < 4096) :
    faultOf (.stRegs x) s = none :=
  accessViolation_eq_none.mpr (.inr h)

theorem faultOf_ldRegs_eq_none {x : Reg} {s : State} (h : s.i.toNat + x.toNat < 4096) :
    faultOf (.ldRegs x) s = none :=
  accessViolation_eq_none.mpr (.inr h)

theorem State.toNat_i_stepIndex {s : State} {x : Reg} (h : s.i.toNat + x.toNat < 4096) :
    (s.stepIndex x).i.toNat = s.i.toNat + x.toNat + 1 := by
  have hx := x.isLt
  have hlen : (BitVec.ofNat 16 (blockLen x)).toNat = x.toNat + 1 := Nat.mod_eq_of_lt (by rw [blockLen]; omega)
  rw [State.stepIndex_i, BitVec.toNat_add_of_lt (by omega), hlen]
  omega

/-- The byte that Fx55 leaves at `I + k` (45_index_memory.md R119). -/
theorem State.read_completed_stRegs (x k : Reg) (hk : k.toNat ≤ x.toNat) :
    (completed (.stRegs x) s).mem.read (s.i.toNat + k.toNat) = s.reg k := by
  have hlen : k.toNat < (s.regBlock x).length := by
    rw [length_regBlock]
    omega
  exact (s.read_stored _ _ _ hlen).trans (getElem_regBlock s x k hlen)

/-- A digit is no greater than the byte it is taken from, so it fits a byte (45_index_memory.md R118). -/
theorem toNat_digit {n : Nat} {b : Byte} (h : n ≤ b.toNat) : (BitVec.ofNat 8 n).toNat = n :=
  Nat.mod_eq_of_lt (h.trans_lt b.isLt)

end Sys2Proof.Machine

open Sys2Proof Sys2Proof.Machine

/-- Settles O46 (45_index_memory.md R118; D1, D5). -/
theorem decimalDigitsAreStored : Obligations.DecimalDigitsAreStored := by
  refine fun x s => ⟨fun h => ?_, fun h => ?_⟩
  · have hnone : faultOf (.ldB x) s = none := accessViolation_eq_none.mpr (.inr (by omega))
    have hlen : (bcdDigits (s.reg x)).length = 3 := rfl
    have hread := s.read_stored s.i.toNat (bcdDigits (s.reg x))
    refine ⟨_, exec_of_faultOf_none hnone, rfl, ?_, ?_, ?_, ?_⟩
    · exact (congrArg BitVec.toNat (hread 0 (by omega))).trans (toNat_digit (b := s.reg x) (by omega))
    · exact (congrArg BitVec.toNat (hread 1 (by omega))).trans (toNat_digit (b := s.reg x) (by omega))
    · exact (congrArg BitVec.toNat (hread 2 (by omega))).trans (toNat_digit (b := s.reg x) (by omega))
    · exact Unchanged.advance (Unchanged.stored (Unchanged.refl _ s) _ le_rfl)
  · have hfault : faultOf (.ldB x) s = some ⟨.memOor, max s.i.toNat 4096⟩ :=
      accessViolation_of_lt (by decide) (by omega)
    exact exec_of_faultOf_some hfault

/-- Settles O47 (45_index_memory.md R119; D1, D5). -/
theorem storeBlockWritesRegisters : Obligations.StoreBlockWritesRegisters := by
  refine fun x s => ⟨fun h => ?_, fun h => ?_⟩
  · refine ⟨_, exec_of_faultOf_none (faultOf_stRegs_eq_none h), rfl, State.toNat_i_stepIndex h,
      s.read_completed_stRegs x, ?_⟩
    exact ((Unchanged.stored (Unchanged.refl _ s) _ (length_regBlock s x).le).setI rfl _).advance
  · have hfault : faultOf (.stRegs x) s = some ⟨.memOor, max s.i.toNat 4096⟩ :=
      accessViolation_of_lt (Nat.succ_pos _) (by omega)
    exact exec_of_faultOf_some hfault

/-- Settles O48 (45_index_memory.md R120; D1, D5). -/
theorem loadBlockReadsRegisters : Obligations.LoadBlockReadsRegisters := by
  refine fun x s => ⟨fun h => ?_, fun h => ?_⟩
  · refine ⟨_, exec_of_faultOf_none (faultOf_ldRegs_eq_none h), rfl, State.toNat_i_stepIndex h, fun k hk => ?_, ?_⟩
    · rw [State.reg_completed_ldRegs, if_pos hk]
    · refine (((Unchanged.refl _ s).loadRegs _ fun r hr => ?_).setI rfl _).advance
      rw [Memory.length_readBytes, blockLen] at hr
      exact List.mem_map.mpr ⟨r.toNat, List.mem_range.mpr hr, by rw [BitVec.ofNat_toNat, BitVec.setWidth_eq]⟩
  · have hfault : faultOf (.ldRegs x) s = some ⟨.memOor, max s.i.toNat 4096⟩ :=
      accessViolation_of_lt (Nat.succ_pos _) (by omega)
    exact exec_of_faultOf_some hfault

/-- Settles O49 (45_index_memory.md R119, R120; 95_test_vectors.md E5). -/
theorem storedBlockLoadsBack : Obligations.StoredBlockLoadsBack := by
  intro x s h
  refine ⟨_, exec_of_faultOf_none (faultOf_stRegs_eq_none h), State.toNat_i_stepIndex h, fun v =>
    ⟨_, exec_of_faultOf_none (faultOf_ldRegs_eq_none h), rfl, fun k hk => ?_⟩⟩
  rw [State.reg_completed_ldRegs, if_pos hk]
  exact s.read_completed_stRegs x k hk

/-- Settles O56 (20_memory.md R37, R42, 45_index_memory.md R119). -/
theorem nextFetchSeesTheStore : Obligations.NextFetchSeesTheStore := by
  intro x k s h hk hpc
  refine ⟨_, exec_of_faultOf_none (faultOf_stRegs_eq_none h), ?_⟩
  have hx := x.isLt
  have htwo : (2 : Word).toNat = 2 := rfl
  have hone : (1 : Reg).toNat = 1 := rfl
  have hnext : (completed (.stRegs x) s).pc.toNat = s.i.toNat + k.toNat := by
    rw [hpc]
    exact BitVec.toNat_add_of_lt (x := s.pc) (y := 2) (by omega)
  have hsucc : (k + 1).toNat = k.toNat + 1 := BitVec.toNat_add_of_lt (by omega)
  have hhigh := s.read_completed_stRegs x k (by omega)
  have hlow := s.read_completed_stRegs x (k + 1) (by omega)
  rcases (completed (.stRegs x) s).fetch_cases with ⟨-, hfetch⟩ | ⟨hlt, -⟩
  · rw [hfetch, hnext, hhigh, Nat.add_assoc, ← hsucc, hlow]
    rfl
  · omega
end

section
/-! The countdown over many cycles, and the cycles that do nothing but count: the wait of Fx0A and the jump to itself
(40_cycle.md R70, R71, R77, 46_random_timers_keywait.md R127). -/

namespace Sys2Proof.Machine

/-! ## Iterated countdowns -/

theorem Unchanged.countdown {f : Footprint} {s t : State} (h : Unchanged f s t) (hdelay : f.delay = true)
    (hsound : f.sound = true) (hout : f.outputs = true) : Unchanged f s t.countdown := by
  obtain ⟨hregs, hindex, hstack, -, -, hmem, -, hrest⟩ := h
  exact ⟨hregs, hindex, hstack, fun hkept => absurd hkept (ne_false_of_eq_true hdelay),
    fun hkept => absurd hkept (ne_false_of_eq_true hsound), hmem,
    fun hkept => absurd hkept (ne_false_of_eq_true hout), hrest⟩

theorem iterate_countdown_succ (k : Nat) (s : State) :
    State.countdown^[k + 1] s = (State.countdown^[k] s).countdown :=
  Function.iterate_succ_apply' _ k s

theorem toNat_dt_iterate_countdown (k : Nat) (s : State) :
    (State.countdown^[k] s).dt.toNat = s.dt.toNat - k := by
  induction k with
  | zero => rfl
  | succ k ih => rw [iterate_countdown_succ, State.countdown_dt, toNat_countDown, ih, Nat.sub_sub]

theorem toNat_st_iterate_countdown (k : Nat) (s : State) :
    (State.countdown^[k] s).st.toNat = s.st.toNat - k := by
  induction k with
  | zero => rfl
  | succ k ih => rw [iterate_countdown_succ, State.countdown_st, toNat_countDown, ih, Nat.sub_sub]

/-- The countdown that takes `ST` to 0 is the one that emits: at most one of `k` does (40_cycle.md R71). -/
theorem outputs_iterate_countdown (k : Nat) (s : State) :
    (State.countdown^[k] s).outputs =
      s.outputs ++ (if 0 < s.st.toNat ∧ s.st.toNat ≤ k then [.soundEvent] else []) := by
  induction k with
  | zero =>
    rw [if_neg (by omega), List.append_nil]
    rfl
  | succ k ih =>
    rw [iterate_countdown_succ, State.outputs_countdown, ih, toNat_st_iterate_countdown]
    by_cases hnow : s.st.toNat - k = 1
    · rw [if_neg (by omega), if_pos hnow, if_pos (by omega), List.append_nil]
    · have hsame : (0 < s.st.toNat ∧ s.st.toNat ≤ k + 1) ↔ (0 < s.st.toNat ∧ s.st.toNat ≤ k) := by omega
      rw [if_neg hnow, List.append_nil]
      simp only [hsame]

theorem pc_iterate_countdown (k : Nat) (s : State) : (State.countdown^[k] s).pc = s.pc := by
  induction k with
  | zero => rfl
  | succ k ih => rw [iterate_countdown_succ, State.countdown_pc, ih]

theorem unchanged_iterate_countdown (k : Nat) (s : State) :
    Unchanged { delay := true, sound := true, outputs := true } s (State.countdown^[k] s) := by
  induction k with
  | zero => exact Unchanged.refl _ s
  | succ k ih =>
    rw [iterate_countdown_succ]
    exact ih.countdown rfl rfl rfl

/-! ## A cycle whose instruction does nothing -/

theorem step_of_exec_self {s : State} {i : Instr} (hrunning : s.fault = none) (hpc : s.pc.toNat ≤ 4094)
    (hi : decodeWord s.wordAtPc = .ok i) (hself : exec i s = .next s) :
    step s = .next s.countdown.nextInputs := by
  rw [step_of_exec hrunning hpc hi hself, State.finishCycle_running s hrunning]

theorem State.toNat_dt_ended_sub (s : State) (k : Nat) :
    s.countdown.nextInputs.dt.toNat - k = s.dt.toNat - (k + 1) := by
  rw [State.nextInputs_dt, State.countdown_dt, toNat_countDown, Nat.sub_sub, Nat.add_comm 1 k]

theorem State.toNat_st_ended_sub (s : State) (k : Nat) :
    s.countdown.nextInputs.st.toNat - k = s.st.toNat - (k + 1) := by
  rw [State.nextInputs_st, State.countdown_st, toNat_countDown, Nat.sub_sub, Nat.add_comm 1 k]

/-- The jump to the address it stands at (40_cycle.md R77). -/
theorem exec_jp_self {s : State} {nnn : Addr12} (h : nnn.toNat = s.pc.toNat) : exec (.jp nnn) s = .next s := by
  have htarget : absAddr nnn = s.pc := BitVec.eq_of_toNat_eq ((toNat_absAddr nnn).trans h)
  rw [exec_jp, htarget]
  rfl

end Sys2Proof.Machine

open Sys2Proof Sys2Proof.Machine

/-- Settles O12 (40_cycle.md R70, R71; D13). -/
theorem countdownStopsAtZero : Obligations.CountdownStopsAtZero := fun k s =>
  ⟨toNat_dt_iterate_countdown k s, toNat_st_iterate_countdown k s, outputs_iterate_countdown k s,
    pc_iterate_countdown k s, unchanged_iterate_countdown k s⟩

/-- Settles O54, by induction on the idle cycles, each of which changes nothing but the timers and uses up its record of
inputs (46_random_timers_keywait.md R127, 40_cycle.md R69; log 2). -/
theorem keyWaitRepeatsUntilAKeyIsPressed : Obligations.KeyWaitRepeatsUntilAKeyIsPressed := by
  rintro n x s idle rest e k hrunning hpc hi hinputs rfl hidle hk hpressed hlow
  induction idle generalizing s with
  | nil =>
    have hkeys := State.keys_of_inputs hinputs
    rw [← hkeys] at hpressed hlow
    have hstep := step_of_exec hrunning hpc hi (exec_ldVxK_of_lowest x hpressed hlow)
    have hdone : (s.setReg x (BitVec.ofNat 8 k)).advance.fault = none := hrunning
    rw [State.finishCycle_running _ hdone] at hstep
    refine ⟨⟨s, rfl, rfl, rfl, rfl, rfl⟩, _, run_succ_of_next hstep 0, rfl, ?_,
      fun r hr => s.reg_setReg_advance_other hr.symm _, hrunning⟩
    rw [State.reg_nextInputs, State.reg_countdown, State.reg_setReg_advance_self, toNat_ofNat_key hk]
  | cons q idle ih =>
    have hkeys : s.keys = 0 := (State.keys_of_inputs hinputs).trans (hidle q List.mem_cons_self)
    have hstep := step_of_exec_self hrunning hpc hi (exec_ldVxK_of_no_key x hkeys)
    obtain ⟨⟨t, ht, htpc, htv, htdt, htst⟩, u, hu, hafter⟩ := ih s.countdown.nextInputs hrunning hpc hi
      (congrArg List.tail hinputs) (fun q' hq' => hidle q' (List.mem_cons_of_mem q hq'))
    exact ⟨⟨t, (run_succ_of_next hstep _).trans ht, htpc, htv, htdt.trans (s.toNat_dt_ended_sub _),
      htst.trans (s.toNat_st_ended_sub _)⟩, u, (run_succ_of_next hstep _).trans hu, hafter⟩

/-- Settles O60, by induction on the cycles (40_cycle.md R77; D20). -/
theorem selfJumpOnlyCountsTheTimers : Obligations.SelfJumpOnlyCountsTheTimers := by
  intro k s hrunning hself
  induction k generalizing s with
  | zero => exact ⟨s, rfl, rfl, rfl, rfl, rfl, rfl, rfl, hrunning, rfl, rfl⟩
  | succ k ih =>
    obtain ⟨hpc, nnn, hi, htarget⟩ := hself
    have hstep := step_of_exec_self hrunning hpc hi (exec_jp_self htarget)
    obtain ⟨t, ht, hv, hindex, hpc', hstack, hsp, hmem, hfault, hdt, hst⟩ :=
      ih s.countdown.nextInputs hrunning ⟨hpc, nnn, hi, htarget⟩
    exact ⟨t, (run_succ_of_next hstep k).trans ht, hv, hindex, hpc', hstack, hsp, hmem, hfault,
      hdt.trans (s.toNat_dt_ended_sub k), hst.trans (s.toNat_st_ended_sub k)⟩
end

section
/-! Canonical memory as a function of its bytes, and the states that reset and load leave (20_memory.md section 1,
70_reset_and_hazards.md sections 1, 2, 5). -/

namespace Sys2Proof.Machine

/-! ## The canonical form -/

theorem Memory.read_of_mem {m : Memory} (hm : m.Pairwise fun c d => c.1 < d.1) {c : Host.Cell} (hc : c ∈ m) :
    m.read c.1 = c.2 := by
  induction m with
  | nil => cases hc
  | cons d m ih =>
    obtain ⟨hd, hm⟩ := List.pairwise_cons.mp hm
    rcases List.mem_cons.mp hc with rfl | hc
    · simp only [Memory.read, if_true]
    · rw [Memory.read, if_neg (hd c hc).ne, ih hm hc]

/-- What canonical memory lists is what differs from its reset contents. -/
theorem Memory.mem_iff {m : Memory} (hm : m.wf) (c : Host.Cell) :
    c ∈ m ↔ c.1 < 4096 ∧ m.read c.1 = c.2 ∧ c.2 ≠ Memory.initial c.1 := by
  constructor
  · intro hc
    obtain ⟨hlt, hne⟩ := hm.2 c hc
    exact ⟨hlt, Memory.read_of_mem hm.1 hc, hne⟩
  · rintro ⟨-, hread, hne⟩
    by_contra hc
    refine hne (hread.symm.trans (Memory.read_of_not_listed m c.1 fun d hd heq => hc ?_))
    have hval : d.2 = c.2 := (Memory.read_of_mem hm.1 hd).symm.trans (heq ▸ hread)
    rwa [← Prod.ext heq hval]

theorem Memory.eq_of_read {m m' : Memory} (hm : m.wf) (hm' : m'.wf)
    (h : ∀ a, a < 4096 → m.read a = m'.read a) : m = m' := by
  have : Std.Irrefl fun c d : Host.Cell => c.1 < d.1 := ⟨fun c => lt_irrefl c.1⟩
  have : Std.Antisymm fun c d : Host.Cell => c.1 < d.1 := ⟨fun _ _ h h' => absurd h' h.asymm⟩
  refine hm.1.eq_of_mem_iff hm'.1 fun c => ?_
  rw [Memory.mem_iff hm, Memory.mem_iff hm']
  exact and_congr_right fun hlt => by rw [h c.1 hlt]

/-! ## Reset -/

/-- Beyond the font, memory is 0 after reset (10_state.md R22). -/
theorem Memory.initial_of_le {a : Nat} (h : 80 ≤ a) : Memory.initial a = 0 :=
  List.getD_eq_default _ _ h

theorem State.read_resetCore_font (font : Vector Byte 80) (s : State) {a : Nat} (h : a < 80) :
    (s.resetCore font).mem.read a = font[a] := by
  have hin : 0 ≤ a ∧ a - 0 < font.toList.length := ⟨Nat.zero_le a, by rwa [Vector.length_toList]⟩
  have hread := Memory.read_writeBytes font.toList [] 0 a
  rw [dif_pos hin] at hread
  rw [State.resetCore, hread, Vector.getElem_toList]
  rfl

theorem State.read_resetCore_rest (font : Vector Byte 80) (s : State) {a : Nat} (h : 80 ≤ a) :
    (s.resetCore font).mem.read a = 0 := by
  have hout : a < 0 ∨ 0 + font.toList.length ≤ a := .inr (by rw [Vector.length_toList]; omega)
  have hread := Memory.read_writeBytes_outside font.toList [] 0 a hout
  rw [State.resetCore, hread]
  exact Memory.initial_of_le h

/-- Reset with the default font lists nothing: every byte has its reset contents (log 1). -/
theorem State.mem_resetCore_defaultFont {font : Vector Byte 80} (h : font.toList = Config.defaultFont) (s : State) :
    (s.resetCore font).mem = [] := by
  refine Memory.eq_of_read (s.resetCore_wf font) Memory.wf_nil fun a _ => ?_
  by_cases ha : a < 80
  · have hlen : a < font.toList.length := by rwa [Vector.length_toList]
    rw [State.read_resetCore_font font s ha, Memory.read, Memory.initial, ← h, List.getD_eq_getElem _ _ hlen,
      Vector.getElem_toList]
  · rw [State.read_resetCore_rest font s (by omega)]
    exact (Memory.initial_of_le (by omega)).symm

/-! ## Load -/

theorem State.load_eq_stored (image : List Byte) (s : State) :
    s.load image = (s.stored 0x200 (image.take 3584)).setPc 0x200 := rfl

theorem State.read_load_image (image : List Byte) (s : State) {k : Nat} (h : k < image.length) (hk : k < 3584) :
    (s.load image).mem.read (0x200 + k) = image[k] := by
  have hlen : k < (image.take 3584).length := by
    rw [List.length_take]
    omega
  exact (s.read_stored 0x200 _ k hlen).trans List.getElem_take

theorem State.read_load_outside (image : List Byte) (s : State) {a : Nat}
    (h : a < 0x200 ∨ 0x200 + min image.length 3584 ≤ a) : (s.load image).mem.read a = s.mem.read a := by
  refine Memory.read_writeBytes_outside _ s.mem 0x200 a ?_
  rw [List.length_take, Nat.min_comm]
  exact h

theorem State.unchanged_load (image : List Byte) (s : State) :
    Unchanged { memAt := 0x200, memLen := min image.length 3584 } s (s.load image) := by
  rw [State.load_eq_stored]
  refine Unchanged.setPc (Unchanged.stored (Unchanged.refl _ s) _ ?_) _
  rw [List.length_take, Nat.min_comm]

/-! ## The host's moves -/

theorem Session.moves_reset_load (font : Vector Byte 80) (image : List Byte) {h : Session} (hp : h.phase ≠ .stopped) :
    h.moves [.reset font, .load image] = .ok ⟨h.core.launch font image, .started, h.keys⟩ := by
  obtain ⟨core, phase, keys⟩ := h
  cases phase with
  | fresh | started => rfl
  | stopped => exact absurd rfl hp

theorem Session.load_refused (image : List Byte) {h : Session} (hp : h.phase ≠ .fresh) :
    ∃ e, h.move (.load image) = .error e := by
  obtain ⟨core, phase, keys⟩ := h
  cases phase with
  | fresh => exact absurd rfl hp
  | started => exact ⟨.loadOutOfTurn, rfl⟩
  | stopped => exact ⟨.runEnded, rfl⟩

theorem Session.fresh_of_move {h h' : Session} {m : HostMove} (hm : h.move m = .ok h') (hp : h'.phase = .fresh) :
    (∃ font, m = .reset font) ∨
      (h.phase = .fresh ∧ h'.core = h.core ∧ (m = .present ∨ ∃ key pressed, m = .setPressed key pressed)) := by
  obtain ⟨-, ⟨font, rfl, -⟩ | ⟨_, -, -, rfl⟩ | ⟨key, pressed, rfl, rfl⟩ | ⟨_, _, -, rfl⟩ | ⟨rfl, rfl⟩ | ⟨-, rfl⟩⟩ :=
    Session.move_cases hm
  · exact .inl ⟨font, rfl⟩
  · cases hp
  · exact .inr ⟨hp, rfl, .inr ⟨key, pressed, rfl⟩⟩
  · cases hp
  · exact .inr ⟨hp, rfl, .inl rfl⟩
  · cases hp

end Sys2Proof.Machine

open Sys2Proof Sys2Proof.Machine

/-- Settles O55: canonical memories list the same cells, in the same order (20_memory.md R30; log 1). -/
theorem canonicalMemoriesAreEqualByBytes : Obligations.CanonicalMemoriesAreEqualByBytes :=
  fun _ _ hm hm' h => Memory.eq_of_read hm hm' h

/-- Settles O57 (70_reset_and_hazards.md R165; D10, D21, log 1 to 3). -/
theorem resetLeavesTheListedValues : Obligations.ResetLeavesTheListedValues := by
  refine fun font s => ⟨fun r => ?_, rfl, rfl, fun k hk => ?_, rfl, rfl, rfl, rfl,
    fun a ha => s.read_resetCore_font font ha, fun a ha => s.read_resetCore_rest font ha, rfl, fun hfont => ?_⟩
  · exact Vector.getElem_replicate _
  · exact Vector.getElem_replicate _
  · exact congrArg (fun mem => { State.reset with mem }) (State.mem_resetCore_defaultFont hfont State.reset)

/-- Settles O58 (70_reset_and_hazards.md R167; D21, log 8). -/
theorem loadCopiesTheImage : Obligations.LoadCopiesTheImage := fun image s =>
  ⟨rfl, fun _ h hk => s.read_load_image image h hk, s.unchanged_load image⟩

/-- Settles O59 (70_reset_and_hazards.md R169, R183; D10, D21, log 8). -/
theorem launchStateContents : Obligations.LaunchStateContents := by
  intro font image s
  have hlow : ∀ a, a < 0x200 → (s.launch font image).mem.read a = (s.resetCore font).mem.read a := fun a ha =>
    (s.resetCore font).read_load_outside image (.inl ha)
  refine ⟨fun a ha => ?_, fun a ha hlt => ?_, fun k h hk => (s.resetCore font).read_load_image image h hk,
    fun a ha hlt => ?_, fun r => Vector.getElem_replicate _, rfl, rfl, rfl, fun k hk => Vector.getElem_replicate _,
    rfl, rfl, rfl, fun h hp => Session.moves_reset_load font image hp, fun h hp => Session.load_refused image hp,
    fun h h' m hm hp => Session.fresh_of_move hm hp⟩
  · rw [hlow a (by omega), State.read_resetCore_font font s ha]
  · rw [hlow a hlt, State.read_resetCore_rest font s ha]
  · exact ((s.resetCore font).read_load_outside image (.inr ha)).trans (s.read_resetCore_rest font (by omega))
end
